-- ==== Sys2Proof/Word.lean ====
section
/-! DEFINITION. The word types of the core: 00_scope.md rules R6 and R7. -/

namespace Sys2Proof

/-- A register value, an ALU operand, an address or the PC: `XLEN` = `PCLEN` = 64 bits (R5, R7). -/
abbrev Word := BitVec 64

/-- One byte of data memory (R64). -/
abbrev Byte := BitVec 8

/-- One instruction word, `ILEN` = 32 bits, bit 31 the most significant (R5, R6, R90). -/
abbrev IWord := BitVec 32

/-- A register index, the 5-bit field of an instruction word (R20, R98, R110). -/
abbrev RegIdx := BitVec 5

end Sys2Proof
end

