-- ==== Sys2Proof/Syntax.lean ====
section
/-! DEFINITION. The instructions of spec/opcode_table.json, one constructor per row in the table's order,
and the Instruction Record of 10_state.md rule R37 as a tagged variant. Register fields are the 5-bit
slices of the word, and immediates are held as R37 gives them: 64 bits after sign extension, `shamt` 6
bits, `MOV_immediate` 16 bits, `LSL` 2 bits. -/

namespace Sys2Proof

/-- The six formats (30_encoding.md R91). -/
inductive Format where
  | R | I | D | B | C | M
  deriving DecidableEq, Repr

/-- The 42 instructions (30_encoding.md R102). -/
inductive Instr where
  /-- `B #disp` (R213). -/
  | b (disp : Word)
  /-- `STURB Xt, [Xn, #disp]` (R231). -/
  | sturb (rt rn : RegIdx) (disp : Word)
  /-- `LDURB Xt, [Xn, #disp]` (R235). -/
  | ldurb (rt rn : RegIdx) (disp : Word)
  /-- `B.cond #disp`, `cond` the 5 bits of the `Rt` field (R109, R218). -/
  | bCond (cond : BitVec 5) (disp : Word)
  /-- `STURH Xt, [Xn, #disp]` (R232). -/
  | sturh (rt rn : RegIdx) (disp : Word)
  /-- `LDURH Xt, [Xn, #disp]` (R236). -/
  | ldurh (rt rn : RegIdx) (disp : Word)
  /-- `AND Xd, Xn, Xm` (R144). -/
  | and (rd rn rm : RegIdx)
  /-- `ADD Xd, Xn, Xm` (R142). -/
  | add (rd rn rm : RegIdx)
  /-- `ADDI Xd, Xn, #imm` (R147). -/
  | addi (rd rn : RegIdx) (imm : Word)
  /-- `ANDI Xd, Xn, #imm` (R149). -/
  | andi (rd rn : RegIdx) (imm : Word)
  /-- `BL #disp` (R214). -/
  | bl (disp : Word)
  /-- `SDIV Xd, Xn, Xm` (R184). -/
  | sdiv (rd rn rm : RegIdx)
  /-- `UDIV Xd, Xn, Xm` (R185). -/
  | udiv (rd rn rm : RegIdx)
  /-- `MUL Xd, Xn, Xm` (R181). -/
  | mul (rd rn rm : RegIdx)
  /-- `SMULH Xd, Xn, Xm` (R182). -/
  | smulh (rd rn rm : RegIdx)
  /-- `UMULH Xd, Xn, Xm` (R183). -/
  | umulh (rd rn rm : RegIdx)
  /-- `ORR Xd, Xn, Xm` (R145). -/
  | orr (rd rn rm : RegIdx)
  /-- `ADDS Xd, Xn, Xm` (R152). -/
  | adds (rd rn rm : RegIdx)
  /-- `ADDIS Xd, Xn, #imm` (R155). -/
  | addis (rd rn : RegIdx) (imm : Word)
  /-- `ORRI Xd, Xn, #imm` (R150). -/
  | orri (rd rn : RegIdx) (imm : Word)
  /-- `CBZ Xt, #disp` (R216). -/
  | cbz (rt : RegIdx) (disp : Word)
  /-- `CBNZ Xt, #disp` (R217). -/
  | cbnz (rt : RegIdx) (disp : Word)
  /-- `STURW Xt, [Xn, #disp]` (R233). -/
  | sturw (rt rn : RegIdx) (disp : Word)
  /-- `LDURSW Xt, [Xn, #disp]` (R237). -/
  | ldursw (rt rn : RegIdx) (disp : Word)
  /-- `STXR Xt, [Xn, #disp]`, a plain 8-byte store (R240). -/
  | stxr (rt rn : RegIdx) (disp : Word)
  /-- `LDXR Xt, [Xn, #disp]`, a plain 8-byte load (R241). -/
  | ldxr (rt rn : RegIdx) (disp : Word)
  /-- `EOR Xd, Xn, Xm` (R146). -/
  | eor (rd rn rm : RegIdx)
  /-- `SUB Xd, Xn, Xm` (R143). -/
  | sub (rd rn rm : RegIdx)
  /-- `SUBI Xd, Xn, #imm` (R148). -/
  | subi (rd rn : RegIdx) (imm : Word)
  /-- `EORI Xd, Xn, #imm` (R151). -/
  | eori (rd rn : RegIdx) (imm : Word)
  /-- `MOVZ Xd, #imm, LSL #(16 * slot)` (R200). -/
  | movz (rd : RegIdx) (imm : BitVec 16) (slot : BitVec 2)
  /-- `LSR Xd, Xn, #shamt` (R189). -/
  | lsr (rd rn : RegIdx) (shamt : BitVec 6)
  /-- `LSL Xd, Xn, #shamt` (R188). -/
  | lsl (rd rn : RegIdx) (shamt : BitVec 6)
  /-- `BR Xn` (R215). -/
  | br (rn : RegIdx)
  /-- `ANDS Xd, Xn, Xm` (R154). -/
  | ands (rd rn rm : RegIdx)
  /-- `SUBS Xd, Xn, Xm` (R153). -/
  | subs (rd rn rm : RegIdx)
  /-- `SUBIS Xd, Xn, #imm` (R156). -/
  | subis (rd rn : RegIdx) (imm : Word)
  /-- `ANDIS Xd, Xn, #imm` (R157). -/
  | andis (rd rn : RegIdx) (imm : Word)
  /-- `MOVK Xd, #imm, LSL #(16 * slot)` (R201). -/
  | movk (rd : RegIdx) (imm : BitVec 16) (slot : BitVec 2)
  /-- `STUR Xt, [Xn, #disp]` (R234). -/
  | stur (rt rn : RegIdx) (disp : Word)
  /-- `LDUR Xt, [Xn, #disp]` (R238). -/
  | ldur (rt rn : RegIdx) (disp : Word)
  /-- `EXIT` (R260). -/
  | exit
  deriving DecidableEq, Repr

/-- The Instruction Record (10_state.md R37): what a stage buffer holds after Decode. The last two cases
are the word that matches no opcode (45_system.md R261) and the invalid-fetch marker (R263). -/
inductive Record where
  | instr (i : Instr)
  | unrecognized
  | invalidFetch
  deriving DecidableEq, Repr

end Sys2Proof
end

