-- ==== Sys2Proof/WellFormed.lean ====
section
/-! DEFINITION. Which instructions some word encodes. Register indices, `shamt`, `MOV_immediate` and `LSL`
have their field's width by type (30_encoding.md R98, R110), so what is left to check is that a 64-bit
immediate is the sign extension of its field (R99): the ALU immediate lies in -2048 to 2047, `DT_address`
in -256 to 255, `BR_address` in -2^25 to 2^25 - 1, `COND_BR_address` in -2^18 to 2^18 - 1. -/

namespace Sys2Proof

/-- `v` is `sext_64` of its own low `n` bits (R99). -/
def fitsSigned (n : Nat) (v : Word) : Bool := (v.setWidth n).signExtend 64 == v

/-- An instruction that the decoder can produce (R99). -/
def Instr.wf (i : Instr) : Bool :=
  match i with
  | .addi _ _ imm | .subi _ _ imm | .andi _ _ imm | .orri _ _ imm | .eori _ _ imm
  | .addis _ _ imm | .subis _ _ imm | .andis _ _ imm => fitsSigned 12 imm
  | .sturb _ _ disp | .sturh _ _ disp | .sturw _ _ disp | .stur _ _ disp | .stxr _ _ disp
  | .ldurb _ _ disp | .ldurh _ _ disp | .ldursw _ _ disp | .ldur _ _ disp | .ldxr _ _ disp =>
      fitsSigned 9 disp
  | .b disp | .bl disp => fitsSigned 26 disp
  | .cbz _ disp | .cbnz _ disp | .bCond _ disp => fitsSigned 19 disp
  | .add _ _ _ | .sub _ _ _ | .and _ _ _ | .orr _ _ _ | .eor _ _ _
  | .adds _ _ _ | .subs _ _ _ | .ands _ _ _
  | .mul _ _ _ | .smulh _ _ _ | .umulh _ _ _ | .sdiv _ _ _ | .udiv _ _ _
  | .lsl _ _ _ | .lsr _ _ _ | .movz _ _ _ | .movk _ _ _ | .br _ | .exit => true

end Sys2Proof
end

