-- ==== Sys2Proof/Decode.lean ====
section
/-! DEFINITION. The instruction decoder and the encoder, both written from one table (30_encoding.md R101,
R102). Every opcode value and bit position is the spec's, which marks them as general knowledge (D1, D2;
UNVERIFIED, log entry 10). -/

namespace Sys2Proof

/-- The entries of the opcode table by name. The row 0x4D6 (`divide`) holds SDIV and UDIV, which `shamt`
tells apart (R104); every other entry is one instruction. -/
inductive Op where
  | b | bl | bCond | cbz | cbnz | movz | movk
  | addi | andi | addis | orri | subi | eori | subis | andis
  | sturb | ldurb | sturh | ldurh | and | add | divide | mul | smulh | umulh | orr | adds
  | sturw | ldursw | stxr | ldxr | eor | sub | lsr | lsl | br | ands | subs | stur | ldur | exit
  deriving DecidableEq, Repr

/-- One row of `OPCODE_TABLE`: (width, value) to (format, instruction) (R101). -/
structure OpcodeRow where
  width : Nat
  value : Nat
  format : Format
  op : Op
  deriving DecidableEq, Repr

/-- `OPCODE_TABLE`, rows of width 6, 8 and 9 (R102). -/
def opcodeRowsBCM : List OpcodeRow :=
  [ ⟨6, 0x05, .B, .b⟩, ⟨6, 0x25, .B, .bl⟩,
    ⟨8, 0x54, .C, .bCond⟩, ⟨8, 0xB4, .C, .cbz⟩, ⟨8, 0xB5, .C, .cbnz⟩,
    ⟨9, 0x1A5, .M, .movz⟩, ⟨9, 0x1E5, .M, .movk⟩ ]

/-- `OPCODE_TABLE`, rows of width 10 (R102). -/
def opcodeRowsI : List OpcodeRow :=
  [ ⟨10, 0x244, .I, .addi⟩, ⟨10, 0x248, .I, .andi⟩, ⟨10, 0x2C4, .I, .addis⟩,
    ⟨10, 0x2C8, .I, .orri⟩, ⟨10, 0x344, .I, .subi⟩, ⟨10, 0x348, .I, .eori⟩,
    ⟨10, 0x3C4, .I, .subis⟩, ⟨10, 0x3C8, .I, .andis⟩ ]

/-- `OPCODE_TABLE`, format D rows of width 11 (R102, R230). -/
def opcodeRowsD : List OpcodeRow :=
  [ ⟨11, 0x1C0, .D, .sturb⟩, ⟨11, 0x1C2, .D, .ldurb⟩, ⟨11, 0x3C0, .D, .sturh⟩,
    ⟨11, 0x3C2, .D, .ldurh⟩, ⟨11, 0x5C0, .D, .sturw⟩, ⟨11, 0x5C4, .D, .ldursw⟩,
    ⟨11, 0x640, .D, .stxr⟩, ⟨11, 0x642, .D, .ldxr⟩, ⟨11, 0x7C0, .D, .stur⟩,
    ⟨11, 0x7C2, .D, .ldur⟩ ]

/-- `OPCODE_TABLE`, format R rows of width 11, EXIT among them (R102, R108). -/
def opcodeRowsR : List OpcodeRow :=
  [ ⟨11, 0x450, .R, .and⟩, ⟨11, 0x458, .R, .add⟩, ⟨11, 0x4D6, .R, .divide⟩,
    ⟨11, 0x4D8, .R, .mul⟩, ⟨11, 0x4DA, .R, .smulh⟩, ⟨11, 0x4DE, .R, .umulh⟩,
    ⟨11, 0x550, .R, .orr⟩, ⟨11, 0x558, .R, .adds⟩, ⟨11, 0x650, .R, .eor⟩,
    ⟨11, 0x658, .R, .sub⟩, ⟨11, 0x69A, .R, .lsr⟩, ⟨11, 0x69B, .R, .lsl⟩,
    ⟨11, 0x6B0, .R, .br⟩, ⟨11, 0x750, .R, .ands⟩, ⟨11, 0x758, .R, .subs⟩,
    ⟨11, 0x7FF, .R, .exit⟩ ]

/-- `OPCODE_TABLE` (R5, R102): 41 rows for 42 instructions. -/
def opcodeTable : List OpcodeRow := opcodeRowsBCM ++ opcodeRowsI ++ opcodeRowsD ++ opcodeRowsR

/-- `sext_64` of a field of `n` bits (R7, R99). -/
def sext64 {n : Nat} (v : BitVec n) : Word := v.signExtend 64

/-- `zext_64` of a field of `n` bits (R7, R100). -/
def zext64 {n : Nat} (v : BitVec n) : Word := v.setWidth 64

/-! The field slices of R92 to R98. -/

/-- `Rd` = `Rt` = `w[4:0]`, for B.cond the condition code (R96, R98). -/
def fieldRd (w : IWord) : RegIdx := w.extractLsb' 0 5
/-- `Rn` = `w[9:5]` (R98). -/
def fieldRn (w : IWord) : RegIdx := w.extractLsb' 5 5
/-- `Rm` = `w[20:16]` (R98). -/
def fieldRm (w : IWord) : RegIdx := w.extractLsb' 16 5
/-- `shamt` = `w[15:10]` (R98). -/
def fieldShamt (w : IWord) : BitVec 6 := w.extractLsb' 10 6
/-- `ALU_immediate` = `sext_64(w[21:10])` (R98, R99). -/
def fieldAluImm (w : IWord) : Word := sext64 (w.extractLsb' 10 12)
/-- `DT_address` = `sext_64(w[20:12])` (R98, R99). -/
def fieldDtAddr (w : IWord) : Word := sext64 (w.extractLsb' 12 9)
/-- `BR_address` = `sext_64(w[25:0])` (R98, R99). -/
def fieldBrAddr (w : IWord) : Word := sext64 (w.extractLsb' 0 26)
/-- `COND_BR_address` = `sext_64(w[23:5])` (R98, R99). -/
def fieldCondBrAddr (w : IWord) : Word := sext64 (w.extractLsb' 5 19)
/-- `MOV_immediate` = `w[20:5]` (R98, R100). -/
def fieldMovImm (w : IWord) : BitVec 16 := w.extractLsb' 5 16
/-- `LSL` = `w[22:21]` (R98). -/
def fieldLsl (w : IWord) : BitVec 2 := w.extractLsb' 21 2

/-- The opcode candidate of width `k`: `w[31:32-k]` (R6, R101). -/
def candidate (k : Nat) (w : IWord) : Nat := w.toNat >>> (32 - k)

/-- The row whose key is the pair (width `k`, value `c`) (R101). -/
def lookupOpcode (k c : Nat) : Option OpcodeRow :=
  opcodeTable.find? fun r => r.width == k && r.value == c

/-- The candidates are tried 6, 8, 9, 10, then 11 bits wide, and the first match wins (R101). -/
def findRow (w : IWord) : Option OpcodeRow :=
  [6, 8, 9, 10, 11].findSome? fun k => lookupOpcode k (candidate k w)

/-- Why a word is unrecognized (R106): no candidate matches the table, or opcode 0x4D6 stands with a
`shamt` that is neither SDIV's nor UDIV's (R104). Either way the word runs as a no-operation (R261). -/
inductive Unrecognized where
  | noOpcodeMatch
  | divideShamt
  deriving DecidableEq, Repr

/-- `shamt` of SDIV (R104). -/
def shamtSdiv : BitVec 6 := 2
/-- `shamt` of UDIV (R104). -/
def shamtUdiv : BitVec 6 := 3
/-- The canonical `shamt` of MUL, ignored by decode (R104, R181). -/
def shamtMul : BitVec 6 := 31

/-- SDIV and UDIV share opcode 0x4D6 and differ by `shamt`; any other `shamt` is unrecognized (R104). -/
def refineDivide (w : IWord) : Except Unrecognized Instr :=
  if fieldShamt w = shamtSdiv then .ok (.sdiv (fieldRd w) (fieldRn w) (fieldRm w))
  else if fieldShamt w = shamtUdiv then .ok (.udiv (fieldRd w) (fieldRn w) (fieldRm w))
  else .error .divideShamt

/-- The record of a word whose table entry is `op`: only the fields of its format are kept (R98, R104). -/
def buildRecord (op : Op) (w : IWord) : Except Unrecognized Instr :=
  match op with
  | .b => .ok (.b (fieldBrAddr w))
  | .bl => .ok (.bl (fieldBrAddr w))
  | .bCond => .ok (.bCond (fieldRd w) (fieldCondBrAddr w))
  | .cbz => .ok (.cbz (fieldRd w) (fieldCondBrAddr w))
  | .cbnz => .ok (.cbnz (fieldRd w) (fieldCondBrAddr w))
  | .movz => .ok (.movz (fieldRd w) (fieldMovImm w) (fieldLsl w))
  | .movk => .ok (.movk (fieldRd w) (fieldMovImm w) (fieldLsl w))
  | .addi => .ok (.addi (fieldRd w) (fieldRn w) (fieldAluImm w))
  | .andi => .ok (.andi (fieldRd w) (fieldRn w) (fieldAluImm w))
  | .addis => .ok (.addis (fieldRd w) (fieldRn w) (fieldAluImm w))
  | .orri => .ok (.orri (fieldRd w) (fieldRn w) (fieldAluImm w))
  | .subi => .ok (.subi (fieldRd w) (fieldRn w) (fieldAluImm w))
  | .eori => .ok (.eori (fieldRd w) (fieldRn w) (fieldAluImm w))
  | .subis => .ok (.subis (fieldRd w) (fieldRn w) (fieldAluImm w))
  | .andis => .ok (.andis (fieldRd w) (fieldRn w) (fieldAluImm w))
  | .sturb => .ok (.sturb (fieldRd w) (fieldRn w) (fieldDtAddr w))
  | .ldurb => .ok (.ldurb (fieldRd w) (fieldRn w) (fieldDtAddr w))
  | .sturh => .ok (.sturh (fieldRd w) (fieldRn w) (fieldDtAddr w))
  | .ldurh => .ok (.ldurh (fieldRd w) (fieldRn w) (fieldDtAddr w))
  | .sturw => .ok (.sturw (fieldRd w) (fieldRn w) (fieldDtAddr w))
  | .ldursw => .ok (.ldursw (fieldRd w) (fieldRn w) (fieldDtAddr w))
  | .stxr => .ok (.stxr (fieldRd w) (fieldRn w) (fieldDtAddr w))
  | .ldxr => .ok (.ldxr (fieldRd w) (fieldRn w) (fieldDtAddr w))
  | .stur => .ok (.stur (fieldRd w) (fieldRn w) (fieldDtAddr w))
  | .ldur => .ok (.ldur (fieldRd w) (fieldRn w) (fieldDtAddr w))
  | .and => .ok (.and (fieldRd w) (fieldRn w) (fieldRm w))
  | .add => .ok (.add (fieldRd w) (fieldRn w) (fieldRm w))
  | .orr => .ok (.orr (fieldRd w) (fieldRn w) (fieldRm w))
  | .eor => .ok (.eor (fieldRd w) (fieldRn w) (fieldRm w))
  | .sub => .ok (.sub (fieldRd w) (fieldRn w) (fieldRm w))
  | .adds => .ok (.adds (fieldRd w) (fieldRn w) (fieldRm w))
  | .ands => .ok (.ands (fieldRd w) (fieldRn w) (fieldRm w))
  | .subs => .ok (.subs (fieldRd w) (fieldRn w) (fieldRm w))
  | .mul => .ok (.mul (fieldRd w) (fieldRn w) (fieldRm w))
  | .smulh => .ok (.smulh (fieldRd w) (fieldRn w) (fieldRm w))
  | .umulh => .ok (.umulh (fieldRd w) (fieldRn w) (fieldRm w))
  | .divide => refineDivide w
  | .lsr => .ok (.lsr (fieldRd w) (fieldRn w) (fieldShamt w))
  | .lsl => .ok (.lsl (fieldRd w) (fieldRn w) (fieldShamt w))
  | .br => .ok (.br (fieldRn w))
  | .exit => .ok .exit

/-- The decoder: a total function of the 32 bits of the word and of nothing else (R101, R106, R114). -/
def decode (w : IWord) : Except Unrecognized Instr :=
  match findRow w with
  | some r => buildRecord r.op w
  | none => .error .noOpcodeMatch

/-- The Instruction Record of a fetched word: `word = none` is the invalid-fetch marker of a fetch outside
instruction memory (R101, 45_system.md R261, R263). -/
def decodeFetched (word : Option IWord) : Record :=
  match word with
  | none => .invalidFetch
  | some w =>
    match decode w with
    | .ok i => .instr i
    | .error _ => .unrecognized

/-! The encoder (R105), from the same table. -/

/-- The row of a table entry. Every entry has one (`Op.row_op` in Laws/Opcodes.lean). -/
def Op.row (op : Op) : OpcodeRow :=
  (opcodeTable.find? fun r => r.op == op).getD ⟨11, 0x7FF, .R, .exit⟩

/-- The table entry of an instruction. -/
def Instr.op (i : Instr) : Op :=
  match i with
  | .b _ => .b | .sturb _ _ _ => .sturb | .ldurb _ _ _ => .ldurb | .bCond _ _ => .bCond
  | .sturh _ _ _ => .sturh | .ldurh _ _ _ => .ldurh | .and _ _ _ => .and | .add _ _ _ => .add
  | .addi _ _ _ => .addi | .andi _ _ _ => .andi | .bl _ => .bl | .sdiv _ _ _ => .divide
  | .udiv _ _ _ => .divide | .mul _ _ _ => .mul | .smulh _ _ _ => .smulh | .umulh _ _ _ => .umulh
  | .orr _ _ _ => .orr | .adds _ _ _ => .adds | .addis _ _ _ => .addis | .orri _ _ _ => .orri
  | .cbz _ _ => .cbz | .cbnz _ _ => .cbnz | .sturw _ _ _ => .sturw | .ldursw _ _ _ => .ldursw
  | .stxr _ _ _ => .stxr | .ldxr _ _ _ => .ldxr | .eor _ _ _ => .eor | .sub _ _ _ => .sub
  | .subi _ _ _ => .subi | .eori _ _ _ => .eori | .movz _ _ _ => .movz | .lsr _ _ _ => .lsr
  | .lsl _ _ _ => .lsl | .br _ => .br | .ands _ _ _ => .ands | .subs _ _ _ => .subs
  | .subis _ _ _ => .subis | .andis _ _ _ => .andis | .movk _ _ _ => .movk | .stur _ _ _ => .stur
  | .ldur _ _ _ => .ldur | .exit => .exit

/-- The format tag of an instruction (R37, R91). -/
def Instr.format (i : Instr) : Format := i.op.row.format

/-- The opcode field of an instruction, its width and value (R37, R91). -/
def Instr.opcode (i : Instr) : Nat × Nat := (i.op.row.width, i.op.row.value)

/-- The format tag of a record: `none` for an unrecognized word and the invalid-fetch marker (R91, R301). -/
def Record.format (r : Record) : Option Format :=
  match r with
  | .instr i => some i.format
  | .unrecognized => none
  | .invalidFetch => none

/-- Format R: opcode, `Rm`, `shamt`, `Rn`, `Rd` (R92). -/
def encodeR (op : Op) (rm : RegIdx) (shamt : BitVec 6) (rn rd : RegIdx) : IWord :=
  BitVec.ofNat 11 op.row.value ++ rm ++ shamt ++ rn ++ rd

/-- Format I: opcode, `ALU_immediate`, `Rn`, `Rd` (R93). -/
def encodeI (op : Op) (imm : Word) (rn rd : RegIdx) : IWord :=
  BitVec.ofNat 10 op.row.value ++ imm.setWidth 12 ++ rn ++ rd

/-- Format D: opcode, `DT_address`, `op2` = 0, `Rn`, `Rt` (R94). -/
def encodeD (op : Op) (disp : Word) (rn rt : RegIdx) : IWord :=
  BitVec.ofNat 11 op.row.value ++ disp.setWidth 9 ++ (0 : BitVec 2) ++ rn ++ rt

/-- Format B: opcode, `BR_address` (R95). -/
def encodeB (op : Op) (disp : Word) : IWord :=
  BitVec.ofNat 6 op.row.value ++ disp.setWidth 26

/-- Format C: opcode, `COND_BR_address`, `Rt` or the condition code (R96). -/
def encodeC (op : Op) (disp : Word) (rt : BitVec 5) : IWord :=
  BitVec.ofNat 8 op.row.value ++ disp.setWidth 19 ++ rt

/-- Format M: opcode, `LSL`, `MOV_immediate`, `Rd` (R97). -/
def encodeM (op : Op) (slot : BitVec 2) (imm : BitVec 16) (rd : RegIdx) : IWord :=
  BitVec.ofNat 9 op.row.value ++ slot ++ imm ++ rd

/-- The canonical word of an instruction: ignored bits hold their canonical values, 0 but for MUL's
`shamt` (R104, R105). -/
def encode (i : Instr) : IWord :=
  match i with
  | .b disp => encodeB .b disp
  | .sturb rt rn disp => encodeD .sturb disp rn rt
  | .ldurb rt rn disp => encodeD .ldurb disp rn rt
  | .bCond cond disp => encodeC .bCond disp cond
  | .sturh rt rn disp => encodeD .sturh disp rn rt
  | .ldurh rt rn disp => encodeD .ldurh disp rn rt
  | .and rd rn rm => encodeR .and rm 0 rn rd
  | .add rd rn rm => encodeR .add rm 0 rn rd
  | .addi rd rn imm => encodeI .addi imm rn rd
  | .andi rd rn imm => encodeI .andi imm rn rd
  | .bl disp => encodeB .bl disp
  | .sdiv rd rn rm => encodeR .divide rm shamtSdiv rn rd
  | .udiv rd rn rm => encodeR .divide rm shamtUdiv rn rd
  | .mul rd rn rm => encodeR .mul rm shamtMul rn rd
  | .smulh rd rn rm => encodeR .smulh rm 0 rn rd
  | .umulh rd rn rm => encodeR .umulh rm 0 rn rd
  | .orr rd rn rm => encodeR .orr rm 0 rn rd
  | .adds rd rn rm => encodeR .adds rm 0 rn rd
  | .addis rd rn imm => encodeI .addis imm rn rd
  | .orri rd rn imm => encodeI .orri imm rn rd
  | .cbz rt disp => encodeC .cbz disp rt
  | .cbnz rt disp => encodeC .cbnz disp rt
  | .sturw rt rn disp => encodeD .sturw disp rn rt
  | .ldursw rt rn disp => encodeD .ldursw disp rn rt
  | .stxr rt rn disp => encodeD .stxr disp rn rt
  | .ldxr rt rn disp => encodeD .ldxr disp rn rt
  | .eor rd rn rm => encodeR .eor rm 0 rn rd
  | .sub rd rn rm => encodeR .sub rm 0 rn rd
  | .subi rd rn imm => encodeI .subi imm rn rd
  | .eori rd rn imm => encodeI .eori imm rn rd
  | .movz rd imm slot => encodeM .movz slot imm rd
  | .lsr rd rn shamt => encodeR .lsr 0 shamt rn rd
  | .lsl rd rn shamt => encodeR .lsl 0 shamt rn rd
  | .br rn => encodeR .br 0 0 rn 0
  | .ands rd rn rm => encodeR .ands rm 0 rn rd
  | .subs rd rn rm => encodeR .subs rm 0 rn rd
  | .subis rd rn imm => encodeI .subis imm rn rd
  | .andis rd rn imm => encodeI .andis imm rn rd
  | .movk rd imm slot => encodeM .movk slot imm rd
  | .stur rt rn disp => encodeD .stur disp rn rt
  | .ldur rt rn disp => encodeD .ldur disp rn rt
  | .exit => encodeR .exit 0 0 0 0

/-- The bits of a word that decode ignores once it has found this instruction (R104): `shamt` of a format R
instruction other than a shift or a divide, `Rm` of a shift (41_muldiv_shift.md R180), `Rm`, `shamt` and `Rd`
of BR, `w[20:0]` of EXIT, `w[11:10]` of format D. -/
def Instr.ignoredBits (i : Instr) : IWord :=
  match i with
  | .and _ _ _ | .add _ _ _ | .mul _ _ _ | .smulh _ _ _ | .umulh _ _ _ | .orr _ _ _ | .adds _ _ _
  | .eor _ _ _ | .sub _ _ _ | .ands _ _ _ | .subs _ _ _ => 0x0000FC00
  | .lsl _ _ _ | .lsr _ _ _ => 0x001F0000
  | .br _ => 0x001FFC1F
  | .exit => 0x001FFFFF
  | .sturb _ _ _ | .ldurb _ _ _ | .sturh _ _ _ | .ldurh _ _ _ | .sturw _ _ _ | .ldursw _ _ _
  | .stxr _ _ _ | .ldxr _ _ _ | .stur _ _ _ | .ldur _ _ _ => 0x00000C00
  | .sdiv _ _ _ | .udiv _ _ _ | .b _ | .bl _ | .bCond _ _ | .cbz _ _ | .cbnz _ _
  | .addi _ _ _ | .andi _ _ _ | .addis _ _ _ | .orri _ _ _ | .subi _ _ _ | .eori _ _ _
  | .subis _ _ _ | .andis _ _ _ | .movz _ _ _ | .movk _ _ _ => 0

/-- The word `w` of instruction `i` is canonical: its ignored bits hold their canonical values, `shamt` `0b011111`
for MUL and 0 otherwise (R104, R105). -/
def Instr.canonical (i : Instr) (w : IWord) : Bool :=
  match i with
  | .mul _ _ _ => w &&& i.ignoredBits == 0x00007C00
  | .b _ | .sturb _ _ _ | .ldurb _ _ _ | .bCond _ _ | .sturh _ _ _ | .ldurh _ _ _ | .and _ _ _ | .add _ _ _
  | .addi _ _ _ | .andi _ _ _ | .bl _ | .sdiv _ _ _ | .udiv _ _ _ | .smulh _ _ _ | .umulh _ _ _ | .orr _ _ _
  | .adds _ _ _ | .addis _ _ _ | .orri _ _ _ | .cbz _ _ | .cbnz _ _ | .sturw _ _ _ | .ldursw _ _ _
  | .stxr _ _ _ | .ldxr _ _ _ | .eor _ _ _ | .sub _ _ _ | .subi _ _ _ | .eori _ _ _ | .movz _ _ _
  | .lsr _ _ _ | .lsl _ _ _ | .br _ | .ands _ _ _ | .subs _ _ _ | .subis _ _ _ | .andis _ _ _ | .movk _ _ _
  | .stur _ _ _ | .ldur _ _ _ | .exit => w &&& i.ignoredBits == 0

/-- The word whose low `nbits` bits are those of `w` and whose other bits are 0. Instruction memory is
indexed by words and read whole, so an instruction has no byte order (20_memory.md R61, R65). -/
def tableWord (nbits w : Nat) : IWord := BitVec.ofNat 32 (w % 2 ^ nbits)

/-- The instruction the decoder reads from a word numbered as spec/opcode_table.json numbers its bits. -/
def decodeTableWord (nbits w : Nat) : Option Instr :=
  match decode (tableWord nbits w) with
  | .ok i => some i
  | .error _ => none

end Sys2Proof
end

