-- ==== Sys2Proof/Config.lean ====
section
/-! DEFINITION. The implementation parameters of 00_scope.md rule R5. The spec leaves no value open at
run time (46_pipeline.md R290), so there is no free value here: the four OPEN parameters (`IMEM_WORDS`,
`DMEM_BYTES`, `MODE`, `HAZARD_SCOPE`) are data of the run that a statement can quantify over, and so is the
one point on which two rules of the spec differ (log 20). -/

namespace Sys2Proof

/-- `MODE` (10_state.md R39): how the controller drives the four stage operations. -/
inductive Mode where
  | sequential
  | pipelined
  deriving DecidableEq, Repr

/-- `HAZARD_SCOPE` (R5, decision D4): which register dependencies the hazard detector sees. `full` is
the spec's value (47_hazards_forwarding.md R303), `literal` the other legal one (R304). -/
inductive HazardScope where
  | full
  | literal
  deriving DecidableEq, Repr

/-- Where a dependency on path t stands against a pending flush in the hazard step's order. The spec states both
places and its conflict list does not name the point, so both are modelled (log 20). Only a BL directly followed
by a reader of X30 on path t alone tells them apart, and only in cycles. -/
inductive PathTPriority where
  /-- 47_hazards_forwarding.md R305, R309: the flush comes first, two bubbles. -/
  | belowFlush
  /-- R318, 70_reset_and_hazards.md R365: the reader stalls first, three bubbles. -/
  | aboveFlush
  deriving DecidableEq, Repr

/-- The parameters that are constant during a run. `IMEM_WORDS` is the length of the loaded program,
`State.imem`. -/
structure Params where
  /-- `MODE`, set once before the run (R39). -/
  mode : Mode
  /-- `HAZARD_SCOPE` (R5). -/
  hazardScope : HazardScope
  /-- The place of path t in the hazard step's order; the MODEL's own parameter (log 20). -/
  pathTPriority : PathTPriority
  /-- `DMEM_BYTES`, the size of data memory in bytes (R5, R64). -/
  dmemBytes : Nat
  deriving DecidableEq, Repr

/-- R5: `DMEM_BYTES` is "natural number, at most 2^64". -/
abbrev Params.wf (p : Params) : Prop := p.dmemBytes ≤ 2 ^ 64

/-- The parameters `State.reset` takes. `hazardScope` is the spec's value (D4). DESIGN CHOICE (unsafe):
`mode` is the host's input (R45), `dmemBytes` is OPEN (R5) and `pathTPriority` has two readings in the spec;
log entries 1, 2 and 20 name the values, and no statement rests on them. -/
def Params.atReset : Params :=
  { mode := .sequential, hazardScope := .full, pathTPriority := .belowFlush, dmemBytes := 2 ^ 64 }

/-- `BRANCH_BASE` = 1 (R5, 43_branch.md R210, decision D5). -/
def branchBase : Word := 1

/-- `IMEM_BASE` = 1, the index of the first instruction word and the reset value of the PC (R5, R361). -/
def imemBase : Word := 1

end Sys2Proof
end

