-- ==== Sys2Proof/Machine/State.lean ====
section
/-! DEFINITION. The state of the core, all of it as plain data (10_state.md R20 to R47), the reasons a run
stops, and the state after reset (R45). -/

namespace Sys2Proof.Machine

/-- The cause codes of a fault record (60_exceptions.md R331). A fault is taken: the step that raises it
answers a NEXT state whose `fault` field holds the record (R335, log entry 6), so `Host.Outcome.fault` is
never answered by this model. -/
inductive Fault where
  /-- Code 1. Raised by SDIV and UDIV with a zero divisor (41_muldiv_shift.md R187). Safe: the spec states
  the fault and the state it leaves. -/
  | divideByZero
  /-- Code 2. Raised by a load or store whose last byte lies outside data memory (20_memory.md R68). Safe:
  the spec states the fault and the state it leaves. -/
  | dataAddressOutOfRange
  /-- Code 3. Raised by the invalid-fetch marker when it reaches Execute (45_system.md R263). Safe: the
  spec states the fault and the state it leaves. -/
  | fetchOutOfRange
  /-- Code 4. Raised by nothing here: a register field is 5 bits wide, so no record holds an index above 31
  (R110, R334, log entry 12). Safe. -/
  | invalidRegisterIndex
  deriving DecidableEq, Repr

/-- The numeric cause code (R331). -/
def Fault.code (c : Fault) : Nat :=
  match c with
  | .divideByZero => 1
  | .dataAddressOutOfRange => 2
  | .fetchOutOfRange => 3
  | .invalidRegisterIndex => 4

/-- Why a step has no meaning. -/
inductive Refusal where
  /-- Raised by an arm of `exec` whose instruction has no meaning yet. No arm uses it. Safe. -/
  | notModelled (mnemonic : String)
  /-- Raised by the Execute step of a cycle when the E buffer lacks the value of an operand that its record
  reads: value fields "are undefined and must not be read" before resolution (10_state.md R38, U4 "refuse").
  No run reaches such a buffer (log entry 7). Safe. -/
  | operandUnresolved
  deriving DecidableEq, Repr

/-- The four condition flags (R27). -/
structure Flags where
  z : Bool
  n : Bool
  c : Bool
  v : Bool
  deriving DecidableEq, Repr

/-- All four flags 0 (R29, R45). -/
def Flags.clear : Flags := ⟨false, false, false, false⟩

/-- A register write request `(reg, value)` (00_scope.md R9). -/
structure WriteReq where
  reg : RegIdx
  value : Word
  deriving DecidableEq, Repr

/-- The F buffer, when it is not empty (R33). `word = none` is `valid = 0`: then `word` has no meaning. -/
structure FetchBuf where
  ipc : Word
  word : Option IWord
  deriving DecidableEq, Repr

/-- The D buffer, when it is not a bubble (R34). `record = none` means not yet decoded
(47_hazards_forwarding.md R310). -/
structure DecodeBuf where
  ipc : Word
  word : Option IWord
  record : Option Record
  fwdN : Option Word
  fwdM : Option Word
  fwdT : Option Word
  deriving DecidableEq, Repr

/-- The E buffer, and after Execute the W buffer, when it is not a bubble (R35, R36). An operand value is
present only if the record reads that path (R38). -/
structure ExecBuf where
  record : Record
  ipc : Word
  vn : Option Word
  vm : Option Word
  vt : Option Word
  wb : Option WriteReq
  deriving DecidableEq, Repr

/-- The fault record `{cause, ipc, info}` (R44, R331). -/
structure FaultRecord where
  cause : Fault
  ipc : Word
  info : Word
  deriving DecidableEq, Repr

/-- Data memory as (address, byte) pairs in one canonical form (`Memory.wf` in Machine/Ops.lean). -/
abbrev Memory := List Host.Cell

/-- The state of the core (R45), with the run's constants `params` and `imem` (R39, R30). -/
structure State where
  /-- `MODE`, `HAZARD_SCOPE`, `DMEM_BYTES`: constants of the run (00_scope.md R5). -/
  params : Params
  /-- `IMem[1]`, `IMem[2]`, …; `IMEM_WORDS` is its length (R30, 20_memory.md R61). -/
  imem : List IWord
  /-- `x[0]` to `x[30]`; no storage exists for register 31 (R20, R22). -/
  regs : Vector Word 31
  /-- The PC: the index of the next word Fetch will read (R24). -/
  pc : Word
  /-- `Z`, `N`, `C`, `V` (R27). -/
  flags : Flags
  /-- `DMem` (R31). -/
  dmem : Memory
  /-- The F buffer; `none` is `empty` (R33). -/
  fetchBuf : Option FetchBuf
  /-- The D buffer; `none` is a bubble (R34). -/
  decodeBuf : Option DecodeBuf
  /-- The E buffer; `none` is a bubble (R35). -/
  executeBuf : Option ExecBuf
  /-- The W buffer; `none` is a bubble (R36). -/
  writebackBuf : Option ExecBuf
  /-- `hz_n` (R43). -/
  hzN : Bool
  /-- `hz_m` (R43). -/
  hzM : Bool
  /-- `hz_t` (R43). -/
  hzT : Bool
  /-- `branch_taken` (R42). -/
  branchTaken : Bool
  /-- `program_ended` (R41). -/
  programEnded : Bool
  /-- `cycle_count`, unbounded (R40). -/
  cycleCount : Nat
  /-- `fault` (R44). -/
  fault : Option FaultRecord
  deriving DecidableEq, Repr

/-- The reset values of R45 around what survives or precedes reset: the parameters with the `MODE` input,
the loaded program, and the host's data preload (70_reset_and_hazards.md R360, R362). -/
def State.resetWith (params : Params) (imem : List IWord) (preload : Memory) : State where
  params := params
  imem := imem
  regs := Vector.replicate 31 0
  pc := imemBase
  flags := Flags.clear
  dmem := preload
  fetchBuf := none
  decodeBuf := none
  executeBuf := none
  writebackBuf := none
  hzN := false
  hzM := false
  hzT := false
  branchTaken := false
  programEnded := false
  cycleCount := 0
  fault := none

/-- The machine right after reset, no program loaded and no data preloaded. DESIGN CHOICE (unsafe): the
values of the OPEN parameters, and an empty instruction memory (log entries 1, 2, 3). Every other value is
R45's. -/
def State.reset : State := State.resetWith Params.atReset [] []

/-- Asserting the reset input: `IMem` and the `MODE` input survive, data memory becomes all zero or the
host's preload (R360). -/
def State.assertReset (s : State) (preload : Memory) : State := State.resetWith s.params s.imem preload

end Sys2Proof.Machine
end

