-- ==== Sys2Proof/Machine/Effect.lean ====
section
/-! DEFINITION. What the Execute stage produces for one instruction (46_pipeline.md R280): "(a) an updated
Rd value (for register-writing formats), (b) a new PC (for control-flow formats), (c) a memory read/write
effect (for format D), (d) updated flags (for flag-setting variants), or a combination", or a fault. -/

namespace Sys2Proof.Machine

/-- Kind of a data access (20_memory.md R66). -/
inductive AccessKind where
  | load
  | store
  deriving DecidableEq, Repr

/-- The transfer sizes 1, 2, 4 and 8 bytes (R65, R66). -/
inductive Size where
  | byte
  | half
  | word
  | double
  deriving DecidableEq, Repr

/-- The one data access of a load or store (R66). `value` is the value loaded, or the data register's value
of a store. -/
structure Access where
  kind : AccessKind
  addr : Word
  size : Size
  value : Word
  deriving DecidableEq, Repr

/-- Why a conditional branch was not taken (60_exceptions.md R343, 43_branch.md R219). -/
inductive NotTaken where
  | conditionFalse
  | noMatch
  deriving DecidableEq, Repr

/-- What Execute resolved about control flow (R211). -/
inductive BranchOutcome where
  | notBranch
  | taken (target : Word)
  | notTaken (reason : NotTaken)
  deriving DecidableEq, Repr

/-- The effect of one executed instruction; a field left out means that nothing of that kind happens. -/
structure Effect where
  /-- The register write request (R9). -/
  wb : Option WriteReq := none
  /-- New values of all four flags (R28). -/
  flags : Option Flags := none
  /-- The data access. -/
  access : Option Access := none
  /-- Control flow: `pc <- target` if taken (R9). -/
  branch : BranchOutcome := .notBranch
  /-- `program_ended <- 1` (45_system.md R260). -/
  ended : Bool := false
  deriving DecidableEq, Repr

/-- The result of the Execute step of one instruction: its effect, or `raise cause(info)`, after which the
instruction makes no change (R9, 60_exceptions.md R335). -/
inductive Executed where
  | done (eff : Effect)
  | raises (cause : Fault) (info : Word)
  deriving DecidableEq, Repr

end Sys2Proof.Machine
end

