-- ==== Sys2Proof/Machine/Ops.lean ====
section
/-! DEFINITION. The named operations over registers, memories and the stage buffers that every meaning and
every stage shares, fault entry among them. -/

namespace Sys2Proof.Machine

/-! ## Register file (10_state.md R20 to R23) -/

/-- `x[r]`: register 31 reads 0 on every port (R22). -/
def State.reg (s : State) (r : RegIdx) : Word := if h : r.toNat < 31 then s.regs[r.toNat] else 0

/-- `x[r] <- v` at Writeback: a write to register 31 is discarded (R22). -/
def State.setReg (s : State) (r : RegIdx) (v : Word) : State :=
  if h : r.toNat < 31 then { s with regs := s.regs.set r.toNat v } else s

/-- Commit a write request, if there is one (46_pipeline.md R284). -/
def State.commit (s : State) (wb : Option WriteReq) : State :=
  match wb with
  | some q => s.setReg q.reg q.value
  | none => s

/-! ## Data memory (20_memory.md R64 to R70) -/

/-- What an address that the list does not hold reads as: the reset content (10_state.md R45). -/
def Memory.unlisted : Byte := 0

/-- One byte. -/
def Memory.read (m : Memory) (a : Nat) : Byte :=
  match m with
  | [] => Memory.unlisted
  | (b, v) :: rest => if b = a then v else Memory.read rest a

/-- Store one byte, keeping the canonical form: writing the unlisted value removes the entry. -/
def Memory.write (m : Memory) (a : Nat) (v : Byte) : Memory :=
  match m with
  | [] => if v = Memory.unlisted then [] else [(a, v)]
  | (b, u) :: rest =>
    if a < b then (if v = Memory.unlisted then (b, u) :: rest else (a, v) :: (b, u) :: rest)
    else if a = b then (if v = Memory.unlisted then rest else (a, v) :: rest)
    else (b, u) :: Memory.write rest a v

/-- The canonical form: addresses strictly rising, no entry equal to what an unlisted address reads as. -/
abbrev Memory.wf (m : Memory) : Prop :=
  m.Pairwise (fun x y => x.1 < y.1) ∧ ∀ c ∈ m, c.2 ≠ Memory.unlisted

/-- Bytes of a transfer size (R66). -/
def Size.bytes (z : Size) : Nat :=
  match z with
  | .byte => 1
  | .half => 2
  | .word => 4
  | .double => 8

/-- The big-endian number in the `n` bytes at `a`: the byte at `a` is the most significant (R65). -/
def Memory.readBE (m : Memory) (a n : Nat) : Word :=
  match n with
  | 0 => 0
  | k + 1 => (Memory.readBE m a k <<< 8) ||| (m.read (a + k)).setWidth 64

/-- Byte `k` of the low `8n` bits of `v`, the most significant first: `v[8(n-k)-1 : 8(n-k-1)]` (R65). -/
def storedByte (n k : Nat) (v : Word) : Byte := v.extractLsb' (8 * (n - 1 - k)) 8

/-- Store the first `k` of the `n` big-endian bytes of `v` at `a` (R65). -/
def Memory.writeBytes (m : Memory) (a n : Nat) (v : Word) (k : Nat) : Memory :=
  match k with
  | 0 => m
  | j + 1 => (Memory.writeBytes m a n v j).write (a + j) (storedByte n j v)

/-- Store the low `8n` bits of `v` big-endian at `a` to `a + n - 1` (R65). -/
def Memory.writeBE (m : Memory) (a n : Nat) (v : Word) : Memory := m.writeBytes a n v n

/-- The range check, as natural numbers, without wrap (R68). -/
def inRange (dmemBytes : Nat) (addr : Word) (n : Nat) : Bool := decide (addr.toNat + n ≤ dmemBytes)

/-! ## Instruction memory and Fetch (20_memory.md R61 to R63) -/

/-- `IMem[i]` for `1 <= i <= IMEM_WORDS`, nothing outside (R61, R63). -/
def imemRead (imem : List IWord) (i : Word) : Option IWord :=
  if i = 0 then none else imem[i.toNat - 1]?

/-- What a Fetch delivers into the F buffer (46_pipeline.md R271, R277). -/
def State.fetched (s : State) : FetchBuf := { ipc := s.pc, word := imemRead s.imem s.pc }

/-- The Fetch action: fill F, then `pc <- pc + 1` (R277). -/
def State.fetchNext (s : State) : State := { s with fetchBuf := some s.fetched, pc := s.pc + 1 }

/-- The host's load of one word at index `i` (`1 <= i`), gaps filled with words of zeros, which are
no-operations (70_reset_and_hazards.md R362, 45_system.md R261). -/
def imemPlace (imem : List IWord) (i : Nat) (w : IWord) : List IWord :=
  (imem ++ List.replicate (i - imem.length) 0).set (i - 1) w

/-! ## Effects and fault entry -/

/-- Data memory after an access: a load leaves it as it is (R66, R70). -/
def Memory.after (m : Memory) (acc : Option Access) : Memory :=
  match acc with
  | some ⟨.store, addr, size, value⟩ => m.writeBE addr.toNat size.bytes value
  | some ⟨.load, _, _, _⟩ => m
  | none => m

/-- The PC after Execute: `pc <- target` for a taken branch (43_branch.md R211). -/
def BranchOutcome.pcAfter (b : BranchOutcome) (pc : Word) : Word :=
  match b with
  | .taken target => target
  | .notTaken _ => pc
  | .notBranch => pc

/-- Whether Execute took a branch (R211). -/
def BranchOutcome.isTaken (b : BranchOutcome) : Bool :=
  match b with
  | .taken _ => true
  | .notTaken _ => false
  | .notBranch => false

/-- The effects that happen at once in Execute: flags, data memory, PC, `program_ended` (R280). The register
effect is only recorded in the buffer's `wb`. -/
def State.applyEffect (s : State) (eff : Effect) : State :=
  { s with
    flags := eff.flags.getD s.flags
    dmem := s.dmem.after eff.access
    pc := eff.branch.pcAfter s.pc
    programEnded := s.programEnded || eff.ended }

/-- Taking a fault: `fault <- {cause, ipc, info}` and no other change by the instruction (R335). There is no
handler and no saved state, and no return but reset (R336). -/
def State.takeFault (s : State) (cause : Fault) (ipc info : Word) : State :=
  { s with fault := some { cause := cause, ipc := ipc, info := info } }

/-- The Execute action on the E buffer `e`, once the instruction's rule has answered `x` (R271, R280, R282). -/
def State.executeWith (s : State) (e : ExecBuf) (x : Executed) : State :=
  match x with
  | .done eff => { s.applyEffect eff with executeBuf := some { e with wb := eff.wb } }
  | .raises cause info => s.takeFault cause e.ipc info

/-- The core takes no further step (R288). -/
def State.halted (s : State) : Bool := s.programEnded || s.fault.isSome

/-- The answer of a meaning or a step. -/
abbrev Result := Host.Outcome State Fault Refusal

end Sys2Proof.Machine
end

