-- ==== Sys2Proof/Machine/Load.lean ====
section
/-! DEFINITION. The host's load of an instruction at the PC (70_reset_and_hazards.md R362), for
`State.withFetchWord`. -/

namespace Sys2Proof.Machine

/-- The index at which the next word is loaded: the PC, or 1 when the PC is 0, where no word can stand
(20_memory.md R71). -/
def State.loadIndex (s : State) : Word := if s.pc = 0 then imemBase else s.pc

/-- The core about to fetch the loaded word `w` and run it as one instruction: `w` stands at the PC, the mode is
sequential (a pipelined cycle would only fetch it), no instruction is in progress and the run has not ended
(log entry 3). In a sequential core that is about to fetch at a PC other than 0, only `imem` changes. -/
def State.loadNext (s : State) (w : IWord) : State :=
  { s with
    params := { s.params with mode := .sequential }
    imem := imemPlace s.imem s.loadIndex.toNat w
    pc := s.loadIndex
    fetchBuf := none
    decodeBuf := none
    executeBuf := none
    programEnded := false
    fault := none }

end Sys2Proof.Machine
end

