-- ==== Sys2Proof/Machine/Flags.lean ====
section
/-! DEFINITION. The flag update logic (40_arith_logic.md R141) and the conditions of B.cond (43_branch.md
R219, 30_encoding.md R109). Sums and differences are exact integers, compared with the 64-bit ranges. -/

namespace Sys2Proof.Machine

/-- The largest unsigned value of 64 bits (R141). -/
def unsignedMax : Int := 2 ^ 64 - 1
/-- The largest signed value of 64 bits (R141). -/
def signedMax : Int := 2 ^ 63 - 1
/-- The smallest signed value of 64 bits (R141). -/
def signedMin : Int := -2 ^ 63

/-- Whether an exact signed result lies outside the signed range (R141). -/
def signedOverflow (rs : Int) : Bool := decide (rs > signedMax) || decide (rs < signedMin)

/-- `flags_add(a, b)`: ADDS, ADDIS (R141). -/
def flagsAdd (a b : Word) : Flags where
  z := a + b == 0
  n := (a + b).msb
  c := decide ((a.toNat : Int) + b.toNat > unsignedMax)
  v := signedOverflow (a.toInt + b.toInt)

/-- `flags_sub(a, b)`: SUBS, SUBIS; `C` is the borrow (R141). -/
def flagsSub (a b : Word) : Flags where
  z := a - b == 0
  n := (a - b).msb
  c := decide ((a.toNat : Int) - b.toNat < 0)
  v := signedOverflow (a.toInt - b.toInt)

/-- `flags_and(a, b)`: ANDS, ANDIS; `C` and `V` are 0 (R141). -/
def flagsAnd (a b : Word) : Flags where
  z := a &&& b == 0
  n := (a &&& b).msb
  c := false
  v := false

/-- The six conditions with a case (R219). -/
inductive Cond where
  | eq | ne | ge | lt | gt | le
  deriving DecidableEq, Repr

/-- The condition of a 5-bit code; every other code is "no matching case" (R109, R219). -/
def condOfCode (code : BitVec 5) : Option Cond :=
  if code = 0 then some .eq
  else if code = 1 then some .ne
  else if code = 10 then some .ge
  else if code = 11 then some .lt
  else if code = 12 then some .gt
  else if code = 13 then some .le
  else none

/-- When a condition holds (R219). It reads `Z`, `N`, `V` and never `C` (R28). -/
def Cond.holds (k : Cond) (f : Flags) : Bool :=
  match k with
  | .eq => f.z
  | .ne => !f.z
  | .ge => f.n == f.v
  | .lt => f.n != f.v
  | .gt => !f.z && f.n == f.v
  | .le => f.z || f.n != f.v

end Sys2Proof.Machine
end

