-- ==== Sys2Proof/Machine/Operands.lean ====
section
/-! DEFINITION. Operand paths: which registers a record reads on the paths n, m, t and which it writes
(47_hazards_forwarding.md R300 to R302), operand resolution, effective addresses and branch targets. -/

namespace Sys2Proof.Machine

/-- The register read on path n, the `Rn` field (R301). -/
def readsN (i : Instr) : Option RegIdx :=
  match i with
  | .add _ rn _ | .sub _ rn _ | .and _ rn _ | .orr _ rn _ | .eor _ rn _ | .adds _ rn _ | .subs _ rn _
  | .ands _ rn _ | .mul _ rn _ | .smulh _ rn _ | .umulh _ rn _ | .sdiv _ rn _ | .udiv _ rn _ => some rn
  | .lsl _ rn _ | .lsr _ rn _ | .br rn => some rn
  | .addi _ rn _ | .subi _ rn _ | .andi _ rn _ | .orri _ rn _ | .eori _ rn _ | .addis _ rn _
  | .subis _ rn _ | .andis _ rn _ => some rn
  | .ldurb _ rn _ | .ldurh _ rn _ | .ldursw _ rn _ | .ldur _ rn _ | .ldxr _ rn _ => some rn
  | .sturb _ rn _ | .sturh _ rn _ | .sturw _ rn _ | .stur _ rn _ | .stxr _ rn _ => some rn
  | .b _ | .bl _ | .cbz _ _ | .cbnz _ _ | .bCond _ _ | .movz _ _ _ | .movk _ _ _ | .exit => none

/-- The register read on path m, the `Rm` field (R301). -/
def readsM (i : Instr) : Option RegIdx :=
  match i with
  | .add _ _ rm | .sub _ _ rm | .and _ _ rm | .orr _ _ rm | .eor _ _ rm | .adds _ _ rm | .subs _ _ rm
  | .ands _ _ rm | .mul _ _ rm | .smulh _ _ rm | .umulh _ _ rm | .sdiv _ _ rm | .udiv _ _ rm => some rm
  | .lsl _ _ _ | .lsr _ _ _ | .br _ => none
  | .addi _ _ _ | .subi _ _ _ | .andi _ _ _ | .orri _ _ _ | .eori _ _ _ | .addis _ _ _
  | .subis _ _ _ | .andis _ _ _ => none
  | .ldurb _ _ _ | .ldurh _ _ _ | .ldursw _ _ _ | .ldur _ _ _ | .ldxr _ _ _ => none
  | .sturb _ _ _ | .sturh _ _ _ | .sturw _ _ _ | .stur _ _ _ | .stxr _ _ _ => none
  | .b _ | .bl _ | .cbz _ _ | .cbnz _ _ | .bCond _ _ | .movz _ _ _ | .movk _ _ _ | .exit => none

/-- The register read on path t, the `Rt` = `Rd` field: the data register of a store, the register CBZ and
CBNZ test, and the old value of MOVK's destination (R301, 42_move.md R202). -/
def readsT (i : Instr) : Option RegIdx :=
  match i with
  | .sturb rt _ _ | .sturh rt _ _ | .sturw rt _ _ | .stur rt _ _ | .stxr rt _ _ => some rt
  | .cbz rt _ | .cbnz rt _ => some rt
  | .movk rd _ _ => some rd
  | .add _ _ _ | .sub _ _ _ | .and _ _ _ | .orr _ _ _ | .eor _ _ _ | .adds _ _ _ | .subs _ _ _
  | .ands _ _ _ | .mul _ _ _ | .smulh _ _ _ | .umulh _ _ _ | .sdiv _ _ _ | .udiv _ _ _ => none
  | .lsl _ _ _ | .lsr _ _ _ | .br _ => none
  | .addi _ _ _ | .subi _ _ _ | .andi _ _ _ | .orri _ _ _ | .eori _ _ _ | .addis _ _ _
  | .subis _ _ _ | .andis _ _ _ => none
  | .ldurb _ _ _ | .ldurh _ _ _ | .ldursw _ _ _ | .ldur _ _ _ | .ldxr _ _ _ => none
  | .b _ | .bl _ | .bCond _ _ | .movz _ _ _ | .exit => none

/-- The link register (10_state.md R21, 43_branch.md R214). -/
def linkReg : RegIdx := 30

/-- The zero/discard register (R21, R22). -/
def zeroReg : RegIdx := 31

/-- `dest`: the register an instruction writes (R301). -/
def destOf (i : Instr) : Option RegIdx :=
  match i with
  | .add rd _ _ | .sub rd _ _ | .and rd _ _ | .orr rd _ _ | .eor rd _ _ | .adds rd _ _ | .subs rd _ _
  | .ands rd _ _ | .mul rd _ _ | .smulh rd _ _ | .umulh rd _ _ | .sdiv rd _ _ | .udiv rd _ _ => some rd
  | .lsl rd _ _ | .lsr rd _ _ => some rd
  | .addi rd _ _ | .subi rd _ _ | .andi rd _ _ | .orri rd _ _ | .eori rd _ _ | .addis rd _ _
  | .subis rd _ _ | .andis rd _ _ => some rd
  | .ldurb rt _ _ | .ldurh rt _ _ | .ldursw rt _ _ | .ldur rt _ _ | .ldxr rt _ _ => some rt
  | .movz rd _ _ | .movk rd _ _ => some rd
  | .bl _ => some linkReg
  | .sturb _ _ _ | .sturh _ _ _ | .sturw _ _ _ | .stur _ _ _ | .stxr _ _ _ => none
  | .b _ | .br _ | .cbz _ _ | .cbnz _ _ | .bCond _ _ | .exit => none

/-- `reads(rec)` on path n; an unrecognized word and the invalid-fetch marker read nothing (R301). -/
def Record.readsN (r : Record) : Option RegIdx :=
  match r with
  | .instr i => Machine.readsN i
  | .unrecognized => none
  | .invalidFetch => none

/-- `reads(rec)` on path m (R301). -/
def Record.readsM (r : Record) : Option RegIdx :=
  match r with
  | .instr i => Machine.readsM i
  | .unrecognized => none
  | .invalidFetch => none

/-- `reads(rec)` on path t (R301). -/
def Record.readsT (r : Record) : Option RegIdx :=
  match r with
  | .instr i => Machine.readsT i
  | .unrecognized => none
  | .invalidFetch => none

/-- `dest(rec)` (R301). -/
def Record.dest (r : Record) : Option RegIdx :=
  match r with
  | .instr i => destOf i
  | .unrecognized => none
  | .invalidFetch => none

/-- A `dest` of 31 counts as `none` (R302). -/
def Record.liveDest (r : Record) : Option RegIdx :=
  match Record.dest r with
  | some d => if d = zeroReg then none else some d
  | none => none

/-! ## Operand resolution -/

/-- The value on one path: the forwarded value if one is latched, else the register file's; a path the
record does not read gets no value (R312, 10_state.md R38). -/
def State.resolvePath (s : State) (path : Option RegIdx) (fwd : Option Word) : Option Word :=
  match path with
  | some r => some (fwd.getD (s.reg r))
  | none => none

/-- The E buffer of a record with its operands taken from the register file (46_pipeline.md R272, S3). -/
def State.loadOperands (s : State) (r : Record) (ipc : Word) : ExecBuf where
  record := r
  ipc := ipc
  vn := s.resolvePath (Record.readsN r) none
  vm := s.resolvePath (Record.readsM r) none
  vt := s.resolvePath (Record.readsT r) none
  wb := none

/-- The record of the D buffer: what the Decode step latched, and, before that step, the pure function of the
word that it will latch (10_state.md R34, R278). -/
def DecodeBuf.decoded (d : DecodeBuf) : Record := d.record.getD (decodeFetched d.word)

/-- `resolve(D)` (R312). -/
def State.resolve (s : State) (d : DecodeBuf) : ExecBuf where
  record := d.decoded
  ipc := d.ipc
  vn := s.resolvePath (Record.readsN d.decoded) d.fwdN
  vm := s.resolvePath (Record.readsM d.decoded) d.fwdM
  vt := s.resolvePath (Record.readsT d.decoded) d.fwdT
  wb := none

/-! ## Handing the resolved values of the E buffer to a rule: absent if an operand it needs is (R38). -/

/-- A rule that reads path n. -/
def ExecBuf.withN (e : ExecBuf) (rule : Word → Executed) : Option Executed :=
  match e.vn with
  | some a => some (rule a)
  | none => none

/-- A rule that reads path t. -/
def ExecBuf.withT (e : ExecBuf) (rule : Word → Executed) : Option Executed :=
  match e.vt with
  | some a => some (rule a)
  | none => none

/-- A rule that reads paths n and m. -/
def ExecBuf.withNM (e : ExecBuf) (rule : Word → Word → Executed) : Option Executed :=
  match e.vn, e.vm with
  | some a, some b => some (rule a b)
  | _, _ => none

/-- A rule that reads paths n and t. -/
def ExecBuf.withNT (e : ExecBuf) (rule : Word → Word → Executed) : Option Executed :=
  match e.vn, e.vt with
  | some a, some b => some (rule a b)
  | _, _ => none

/-! ## Addresses and targets -/

/-- The effective address `(vn + DT_address) mod 2^64` (20_memory.md R69, 44_loadstore.md R230). -/
def effectiveAddr (vn disp : Word) : Word := vn + disp

/-- The target of a PC-relative branch, `(ipc + BRANCH_BASE + disp) mod 2^64` (43_branch.md R210). -/
def branchTarget (ipc disp : Word) : Word := ipc + branchBase + disp

/-- An effect that only writes a register. -/
def Effect.write (rd : RegIdx) (v : Word) : Effect := { wb := some ⟨rd, v⟩ }

/-- An effect that writes a register and all four flags. -/
def Effect.writeFlags (rd : RegIdx) (v : Word) (f : Flags) : Effect := { wb := some ⟨rd, v⟩, flags := some f }

/-- An effect that only resolves a branch. -/
def Effect.jump (b : BranchOutcome) : Effect := { branch := b }

/-- The `LDURSW` extension: bit 31 of the loaded word fills bits 63:32 (44_loadstore.md R237). -/
def signExtendLoaded (v : Word) : Word := sext64 (v.setWidth 32)

/-- A load: range check, one read of `size` bytes, a write request for `rt` (44_loadstore.md R230). -/
def loadRule (s : State) (size : Size) (extend : Word → Word) (rt : RegIdx) (disp vn : Word) : Executed :=
  let addr := effectiveAddr vn disp
  if inRange s.params.dmemBytes addr size.bytes then
    let v := s.dmem.readBE addr.toNat size.bytes
    .done { wb := some ⟨rt, extend v⟩, access := some ⟨.load, addr, size, v⟩ }
  else .raises .dataAddressOutOfRange addr

/-- A store: range check, one write of the low `8n` bits of `vt`, no register (44_loadstore.md R230). -/
def storeRule (s : State) (size : Size) (disp vn vt : Word) : Executed :=
  let addr := effectiveAddr vn disp
  if inRange s.params.dmemBytes addr size.bytes then
    .done { access := some ⟨.store, addr, size, vt⟩ }
  else .raises .dataAddressOutOfRange addr

end Sys2Proof.Machine
end

