-- ==== Sys2Proof/Machine/Sequential.lean ====
section
/-! DEFINITION. One instruction of sequential mode, S1 to S4 (46_pipeline.md R272). It is the reference
semantics of the instruction set: "fetch at `pc`; `pc + 1`; decode; read operands; apply the rule; commit the
write request" (R274). -/

namespace Sys2Proof.Machine

/-- S1, S2 and the loading half of S3 for a record fetched at the PC: the PC has advanced, F and D are empty,
E holds the record with its operands from the register file, and three cycles are counted (R272). -/
def State.issue (s : State) (r : Record) : State :=
  { s with
    pc := s.pc + 1
    fetchBuf := none
    decodeBuf := none
    executeBuf := some (s.loadOperands r s.pc)
    cycleCount := s.cycleCount + 3 }

/-- The Writeback action on the W buffer (R284): S4 and P5 share it. -/
def State.commitWriteback (s : State) : State :=
  match s.writebackBuf with
  | some w => s.commit w.wb
  | none => s

/-- S4: `W <- E; E <- bubble`, commit, `W <- bubble`, one cycle (R272). -/
def State.seqWriteback (s : State) : State :=
  { ({ s with writebackBuf := s.executeBuf, executeBuf := none } : State).commitWriteback with
    writebackBuf := none
    cycleCount := s.cycleCount + 1 }

/-- One whole sequential instruction whose rule answered `x`. A fault ends it in S3: three cycles, no S4, and E
still holds the faulting instruction (R272, 60_exceptions.md R335). -/
def State.runRecord (s : State) (r : Record) (x : Executed) : State :=
  let t := (s.issue r).executeWith (s.loadOperands r s.pc) x
  match x with
  | .done _ => t.seqWriteback
  | .raises _ _ => t

/-- The meaning of instruction `i` at an instruction boundary, its rule having answered `x`. -/
def runInstr (i : Instr) (x : Executed) (s : State) : Result := .next (s.runRecord (.instr i) x)

end Sys2Proof.Machine
end

