-- ==== Sys2Proof/Machine/ArithLogic.lean ====
section
/-! DEFINITION. Arithmetic and logic (40_arith_logic.md R140 to R159). Each instruction has its rule, what
its Execute step produces from the resolved operand values, and its meaning, the rule run as one sequential
instruction (46_pipeline.md R274). The pipelined Execute step runs the same rule (Machine/Execute.lean). -/

namespace Sys2Proof.Machine

/-! ## Register-register, no flags -/

/-- The rule of ADD: `x[Rd] <- (vn + vm) mod 2^64` (R142). -/
def addRule (rd : RegIdx) (vn vm : Word) : Executed := .done (Effect.write rd (vn + vm))

/-- The meaning of ADD: its rule on the values of its operands, as one instruction (R142, R274). -/
def execAdd (rd rn rm : RegIdx) (s : State) : Result :=
  runInstr (.add rd rn rm) (addRule rd (s.reg rn) (s.reg rm)) s

/-- The rule of SUB: `x[Rd] <- (vn - vm) mod 2^64` (R143). -/
def subRule (rd : RegIdx) (vn vm : Word) : Executed := .done (Effect.write rd (vn - vm))

/-- The meaning of SUB: its rule on the values of its operands, as one instruction (R143, R274). -/
def execSub (rd rn rm : RegIdx) (s : State) : Result :=
  runInstr (.sub rd rn rm) (subRule rd (s.reg rn) (s.reg rm)) s

/-- The rule of AND: `x[Rd] <- vn & vm` (R144). -/
def andRule (rd : RegIdx) (vn vm : Word) : Executed := .done (Effect.write rd (vn &&& vm))

/-- The meaning of AND: its rule on the values of its operands, as one instruction (R144, R274). -/
def execAnd (rd rn rm : RegIdx) (s : State) : Result :=
  runInstr (.and rd rn rm) (andRule rd (s.reg rn) (s.reg rm)) s

/-- The rule of ORR: `x[Rd] <- vn | vm` (R145). -/
def orrRule (rd : RegIdx) (vn vm : Word) : Executed := .done (Effect.write rd (vn ||| vm))

/-- The meaning of ORR: its rule on the values of its operands, as one instruction (R145, R274). -/
def execOrr (rd rn rm : RegIdx) (s : State) : Result :=
  runInstr (.orr rd rn rm) (orrRule rd (s.reg rn) (s.reg rm)) s

/-- The rule of EOR: `x[Rd] <- vn ^ vm` (R146). -/
def eorRule (rd : RegIdx) (vn vm : Word) : Executed := .done (Effect.write rd (vn ^^^ vm))

/-- The meaning of EOR: its rule on the values of its operands, as one instruction (R146, R274). -/
def execEor (rd rn rm : RegIdx) (s : State) : Result :=
  runInstr (.eor rd rn rm) (eorRule rd (s.reg rn) (s.reg rm)) s

/-! ## Register-immediate, no flags; the immediate is sign-extended in the logical forms too (D28) -/

/-- The rule of ADDI: `x[Rd] <- (vn + imm) mod 2^64` (R147). -/
def addiRule (rd : RegIdx) (imm vn : Word) : Executed := .done (Effect.write rd (vn + imm))

/-- The meaning of ADDI: its rule on the values of its operands, as one instruction (R147, R274). -/
def execAddi (rd rn : RegIdx) (imm : Word) (s : State) : Result :=
  runInstr (.addi rd rn imm) (addiRule rd imm (s.reg rn)) s

/-- The rule of SUBI: `x[Rd] <- (vn - imm) mod 2^64` (R148). -/
def subiRule (rd : RegIdx) (imm vn : Word) : Executed := .done (Effect.write rd (vn - imm))

/-- The meaning of SUBI: its rule on the values of its operands, as one instruction (R148, R274). -/
def execSubi (rd rn : RegIdx) (imm : Word) (s : State) : Result :=
  runInstr (.subi rd rn imm) (subiRule rd imm (s.reg rn)) s

/-- The rule of ANDI: `x[Rd] <- vn & imm` (R149). -/
def andiRule (rd : RegIdx) (imm vn : Word) : Executed := .done (Effect.write rd (vn &&& imm))

/-- The meaning of ANDI: its rule on the values of its operands, as one instruction (R149, R274). -/
def execAndi (rd rn : RegIdx) (imm : Word) (s : State) : Result :=
  runInstr (.andi rd rn imm) (andiRule rd imm (s.reg rn)) s

/-- The rule of ORRI: `x[Rd] <- vn | imm` (R150). -/
def orriRule (rd : RegIdx) (imm vn : Word) : Executed := .done (Effect.write rd (vn ||| imm))

/-- The meaning of ORRI: its rule on the values of its operands, as one instruction (R150, R274). -/
def execOrri (rd rn : RegIdx) (imm : Word) (s : State) : Result :=
  runInstr (.orri rd rn imm) (orriRule rd imm (s.reg rn)) s

/-- The rule of EORI: `x[Rd] <- vn ^ imm` (R151). -/
def eoriRule (rd : RegIdx) (imm vn : Word) : Executed := .done (Effect.write rd (vn ^^^ imm))

/-- The meaning of EORI: its rule on the values of its operands, as one instruction (R151, R274). -/
def execEori (rd rn : RegIdx) (imm : Word) (s : State) : Result :=
  runInstr (.eori rd rn imm) (eoriRule rd imm (s.reg rn)) s

/-! ## Flag-setting -/

/-- The rule of ADDS: the sum and `flags_add(vn, vm)` (R152). -/
def addsRule (rd : RegIdx) (vn vm : Word) : Executed :=
  .done (Effect.writeFlags rd (vn + vm) (flagsAdd vn vm))

/-- The meaning of ADDS: its rule on the values of its operands, as one instruction (R152, R274). -/
def execAdds (rd rn rm : RegIdx) (s : State) : Result :=
  runInstr (.adds rd rn rm) (addsRule rd (s.reg rn) (s.reg rm)) s

/-- The rule of SUBS: the difference and `flags_sub(vn, vm)` (R153). -/
def subsRule (rd : RegIdx) (vn vm : Word) : Executed :=
  .done (Effect.writeFlags rd (vn - vm) (flagsSub vn vm))

/-- The meaning of SUBS: its rule on the values of its operands, as one instruction (R153, R274). -/
def execSubs (rd rn rm : RegIdx) (s : State) : Result :=
  runInstr (.subs rd rn rm) (subsRule rd (s.reg rn) (s.reg rm)) s

/-- The rule of ANDS: the conjunction and `flags_and(vn, vm)` (R154). -/
def andsRule (rd : RegIdx) (vn vm : Word) : Executed :=
  .done (Effect.writeFlags rd (vn &&& vm) (flagsAnd vn vm))

/-- The meaning of ANDS: its rule on the values of its operands, as one instruction (R154, R274). -/
def execAnds (rd rn rm : RegIdx) (s : State) : Result :=
  runInstr (.ands rd rn rm) (andsRule rd (s.reg rn) (s.reg rm)) s

/-- The rule of ADDIS: the sum and `flags_add(vn, imm)` (R155). -/
def addisRule (rd : RegIdx) (imm vn : Word) : Executed :=
  .done (Effect.writeFlags rd (vn + imm) (flagsAdd vn imm))

/-- The meaning of ADDIS: its rule on the values of its operands, as one instruction (R155, R274). -/
def execAddis (rd rn : RegIdx) (imm : Word) (s : State) : Result :=
  runInstr (.addis rd rn imm) (addisRule rd imm (s.reg rn)) s

/-- The rule of SUBIS: the difference and `flags_sub(vn, imm)` (R156). -/
def subisRule (rd : RegIdx) (imm vn : Word) : Executed :=
  .done (Effect.writeFlags rd (vn - imm) (flagsSub vn imm))

/-- The meaning of SUBIS: its rule on the values of its operands, as one instruction (R156, R274). -/
def execSubis (rd rn : RegIdx) (imm : Word) (s : State) : Result :=
  runInstr (.subis rd rn imm) (subisRule rd imm (s.reg rn)) s

/-- The rule of ANDIS: the conjunction and `flags_and(vn, imm)` (R157). -/
def andisRule (rd : RegIdx) (imm vn : Word) : Executed :=
  .done (Effect.writeFlags rd (vn &&& imm) (flagsAnd vn imm))

/-- The meaning of ANDIS: its rule on the values of its operands, as one instruction (R157, R274). -/
def execAndis (rd rn : RegIdx) (imm : Word) (s : State) : Result :=
  runInstr (.andis rd rn imm) (andisRule rd imm (s.reg rn)) s

end Sys2Proof.Machine
end

