-- ==== Sys2Proof/Machine/Branch.lean ====
section
/-! DEFINITION. Branches (43_branch.md R210 to R222). Each instruction has its rule, what
its Execute step produces from the resolved operand values, and its meaning, the rule run as one sequential
instruction (46_pipeline.md R274). The pipelined Execute step runs the same rule (Machine/Execute.lean). -/

namespace Sys2Proof.Machine

/-- The rule of B: always taken (R213). -/
def bRule (disp ipc : Word) : Executed := .done (Effect.jump (.taken (branchTarget ipc disp)))

/-- The meaning of B: its rule on the values of its operands, as one instruction (R213, R274). -/
def execB (disp : Word) (s : State) : Result :=
  runInstr (.b disp) (bRule disp s.pc) s

/-- The rule of BL: always taken; X30 gets the index of the next instruction (R214). -/
def blRule (disp ipc : Word) : Executed :=
  .done { wb := some ⟨linkReg, ipc + 1⟩, branch := .taken (branchTarget ipc disp) }

/-- The meaning of BL: its rule on the values of its operands, as one instruction (R214, R274). -/
def execBl (disp : Word) (s : State) : Result :=
  runInstr (.bl disp) (blRule disp s.pc) s

/-- The rule of BR: always taken, to the absolute index in `Rn` (R215). -/
def brRule (vn : Word) : Executed := .done (Effect.jump (.taken vn))

/-- The meaning of BR: its rule on the values of its operands, as one instruction (R215, R274). -/
def execBr (rn : RegIdx) (s : State) : Result :=
  runInstr (.br rn) (brRule (s.reg rn)) s

/-- A conditional branch on a tested register: taken to its target, or nothing changes (R216, R217). -/
def branchIf (taken : Bool) (target : Word) : Executed :=
  .done (Effect.jump (if taken then .taken target else .notTaken .conditionFalse))

/-- The rule of CBZ: taken if all 64 bits of `vt` are 0 (R216). -/
def cbzRule (disp ipc vt : Word) : Executed := branchIf (vt == 0) (branchTarget ipc disp)

/-- The meaning of CBZ: its rule on the values of its operands, as one instruction (R216, R274). -/
def execCbz (rt : RegIdx) (disp : Word) (s : State) : Result :=
  runInstr (.cbz rt disp) (cbzRule disp s.pc (s.reg rt)) s

/-- The rule of CBNZ: taken if `vt` is not 0 (R217). -/
def cbnzRule (disp ipc vt : Word) : Executed := branchIf (vt != 0) (branchTarget ipc disp)

/-- The meaning of CBNZ: its rule on the values of its operands, as one instruction (R217, R274). -/
def execCbnz (rt : RegIdx) (disp : Word) (s : State) : Result :=
  runInstr (.cbnz rt disp) (cbnzRule disp s.pc (s.reg rt)) s

/-- The rule of B.cond: taken if the condition holds, and then all four flags are cleared; a code with no
case is not taken (R218, R219). -/
def bCondRule (cond : BitVec 5) (disp ipc : Word) (f : Flags) : Executed :=
  match condOfCode cond with
  | some k =>
    if k.holds f then .done { flags := some Flags.clear, branch := .taken (branchTarget ipc disp) }
    else .done (Effect.jump (.notTaken .conditionFalse))
  | none => .done (Effect.jump (.notTaken .noMatch))

/-- The meaning of B.cond: its rule on the values of its operands, as one instruction (R218, R274). -/
def execBCond (cond : BitVec 5) (disp : Word) (s : State) : Result :=
  runInstr (.bCond cond disp) (bCondRule cond disp s.pc s.flags) s

end Sys2Proof.Machine
end

