-- ==== Sys2Proof/Machine/LoadStore.lean ====
section
/-! DEFINITION. Loads and stores (44_loadstore.md R230 to R242). Each instruction has its rule, what
its Execute step produces from the resolved operand values, and its meaning, the rule run as one sequential
instruction (46_pipeline.md R274). The pipelined Execute step runs the same rule (Machine/Execute.lean). -/

namespace Sys2Proof.Machine

/-! ## Stores -/

/-- The rule of STURB: 1 byte (R231). -/
def sturbRule (s : State) (disp vn vt : Word) : Executed := storeRule s .byte disp vn vt

/-- The meaning of STURB: its rule on the values of its operands, as one instruction (R231, R274). -/
def execSturb (rt rn : RegIdx) (disp : Word) (s : State) : Result :=
  runInstr (.sturb rt rn disp) (sturbRule s disp (s.reg rn) (s.reg rt)) s

/-- The rule of STURH: 2 bytes (R232). -/
def sturhRule (s : State) (disp vn vt : Word) : Executed := storeRule s .half disp vn vt

/-- The meaning of STURH: its rule on the values of its operands, as one instruction (R232, R274). -/
def execSturh (rt rn : RegIdx) (disp : Word) (s : State) : Result :=
  runInstr (.sturh rt rn disp) (sturhRule s disp (s.reg rn) (s.reg rt)) s

/-- The rule of STURW: 4 bytes (R233). -/
def sturwRule (s : State) (disp vn vt : Word) : Executed := storeRule s .word disp vn vt

/-- The meaning of STURW: its rule on the values of its operands, as one instruction (R233, R274). -/
def execSturw (rt rn : RegIdx) (disp : Word) (s : State) : Result :=
  runInstr (.sturw rt rn disp) (sturwRule s disp (s.reg rn) (s.reg rt)) s

/-- The rule of STUR: 8 bytes (R234). -/
def sturRule (s : State) (disp vn vt : Word) : Executed := storeRule s .double disp vn vt

/-- The meaning of STUR: its rule on the values of its operands, as one instruction (R234, R274). -/
def execStur (rt rn : RegIdx) (disp : Word) (s : State) : Result :=
  runInstr (.stur rt rn disp) (sturRule s disp (s.reg rn) (s.reg rt)) s

/-- The rule of STXR: a plain 8-byte store, no reservation and no status value (R240). -/
def stxrRule (s : State) (disp vn vt : Word) : Executed := storeRule s .double disp vn vt

/-- The meaning of STXR: its rule on the values of its operands, as one instruction (R240, R274). -/
def execStxr (rt rn : RegIdx) (disp : Word) (s : State) : Result :=
  runInstr (.stxr rt rn disp) (stxrRule s disp (s.reg rn) (s.reg rt)) s

/-! ## Loads; `MemRead` is already the unsigned number, so the zero-extending forms take it as it is -/

/-- The rule of LDURB: 1 byte, zero-extended (R235). -/
def ldurbRule (s : State) (rt : RegIdx) (disp vn : Word) : Executed := loadRule s .byte id rt disp vn

/-- The meaning of LDURB: its rule on the values of its operands, as one instruction (R235, R274). -/
def execLdurb (rt rn : RegIdx) (disp : Word) (s : State) : Result :=
  runInstr (.ldurb rt rn disp) (ldurbRule s rt disp (s.reg rn)) s

/-- The rule of LDURH: 2 bytes, zero-extended (R236). -/
def ldurhRule (s : State) (rt : RegIdx) (disp vn : Word) : Executed := loadRule s .half id rt disp vn

/-- The meaning of LDURH: its rule on the values of its operands, as one instruction (R236, R274). -/
def execLdurh (rt rn : RegIdx) (disp : Word) (s : State) : Result :=
  runInstr (.ldurh rt rn disp) (ldurhRule s rt disp (s.reg rn)) s

/-- The rule of LDURSW: 4 bytes, sign-extended (R237). -/
def ldurswRule (s : State) (rt : RegIdx) (disp vn : Word) : Executed := loadRule s .word signExtendLoaded rt disp vn

/-- The meaning of LDURSW: its rule on the values of its operands, as one instruction (R237, R274). -/
def execLdursw (rt rn : RegIdx) (disp : Word) (s : State) : Result :=
  runInstr (.ldursw rt rn disp) (ldurswRule s rt disp (s.reg rn)) s

/-- The rule of LDUR: 8 bytes (R238). -/
def ldurRule (s : State) (rt : RegIdx) (disp vn : Word) : Executed := loadRule s .double id rt disp vn

/-- The meaning of LDUR: its rule on the values of its operands, as one instruction (R238, R274). -/
def execLdur (rt rn : RegIdx) (disp : Word) (s : State) : Result :=
  runInstr (.ldur rt rn disp) (ldurRule s rt disp (s.reg rn)) s

/-- The rule of LDXR: a plain 8-byte load, no reservation (R241). -/
def ldxrRule (s : State) (rt : RegIdx) (disp vn : Word) : Executed := loadRule s .double id rt disp vn

/-- The meaning of LDXR: its rule on the values of its operands, as one instruction (R241, R274). -/
def execLdxr (rt rn : RegIdx) (disp : Word) (s : State) : Result :=
  runInstr (.ldxr rt rn disp) (ldxrRule s rt disp (s.reg rn)) s

end Sys2Proof.Machine
end

