-- ==== Sys2Proof/Machine/Move.lean ====
section
/-! DEFINITION. Wide moves (42_move.md R200 to R202). Each instruction has its rule, what
its Execute step produces from the resolved operand values, and its meaning, the rule run as one sequential
instruction (46_pipeline.md R274). The pipelined Execute step runs the same rule (Machine/Execute.lean). -/

namespace Sys2Proof.Machine

/-- The bit position of the 16-bit slot that the `LSL` field selects (R200). -/
def slotShift (slot : BitVec 2) : Nat := 16 * slot.toNat

/-- `0xFFFF << s`, the bits of a slot (R201). -/
def slotMask (slot : BitVec 2) : Word := 0xFFFF#64 <<< slotShift slot

/-- The rule of MOVZ: `x[Rd] <- zext_64(MOV_immediate) << (16 * LSL)` (R200). -/
def movzRule (rd : RegIdx) (imm : BitVec 16) (slot : BitVec 2) : Executed := .done (Effect.write rd (zext64 imm <<< slotShift slot))

/-- The meaning of MOVZ: its rule on the values of its operands, as one instruction (R200, R274). -/
def execMovz (rd : RegIdx) (imm : BitVec 16) (slot : BitVec 2) (s : State) : Result :=
  runInstr (.movz rd imm slot) (movzRule rd imm slot) s

/-- The rule of MOVK: the immediate merged into one slot of the old value `vt` of `Rd` (R201). -/
def movkRule (rd : RegIdx) (imm : BitVec 16) (slot : BitVec 2) (vt : Word) : Executed :=
  .done (Effect.write rd ((vt &&& ~~~ slotMask slot) ||| (zext64 imm <<< slotShift slot)))

/-- The meaning of MOVK: its rule on the values of its operands, as one instruction (R201, R274). -/
def execMovk (rd : RegIdx) (imm : BitVec 16) (slot : BitVec 2) (s : State) : Result :=
  runInstr (.movk rd imm slot) (movkRule rd imm slot (s.reg rd)) s

end Sys2Proof.Machine
end

