-- ==== Sys2Proof/Machine/MulDivShift.lean ====
section
/-! DEFINITION. Multiply, divide and shift (41_muldiv_shift.md R180 to R189). Each instruction has its rule, what
its Execute step produces from the resolved operand values, and its meaning, the rule run as one sequential
instruction (46_pipeline.md R274). The pipelined Execute step runs the same rule (Machine/Execute.lean). -/

namespace Sys2Proof.Machine

/-! ## Multiply -/

/-- The rule of MUL: the low 64 bits of the product (R181). -/
def mulRule (rd : RegIdx) (vn vm : Word) : Executed := .done (Effect.write rd (vn * vm))

/-- The meaning of MUL: its rule on the values of its operands, as one instruction (R181, R274). -/
def execMul (rd rn rm : RegIdx) (s : State) : Result :=
  runInstr (.mul rd rn rm) (mulRule rd (s.reg rn) (s.reg rm)) s

/-- Bits 127:64 of a 128-bit product: `floor(P / 2^64) mod 2^64` (R182, R183). Division of integers by a
positive number rounds down. -/
def highHalf (p : Int) : Word := BitVec.ofInt 64 (p / 2 ^ 64)

/-- The rule of SMULH: the high half of the exact signed product (R182). -/
def smulhRule (rd : RegIdx) (vn vm : Word) : Executed := .done (Effect.write rd (highHalf (vn.toInt * vm.toInt)))

/-- The meaning of SMULH: its rule on the values of its operands, as one instruction (R182, R274). -/
def execSmulh (rd rn rm : RegIdx) (s : State) : Result :=
  runInstr (.smulh rd rn rm) (smulhRule rd (s.reg rn) (s.reg rm)) s

/-- The rule of UMULH: the high half of the exact unsigned product (R183). -/
def umulhRule (rd : RegIdx) (vn vm : Word) : Executed := .done (Effect.write rd (highHalf ((vn.toNat : Int) * vm.toNat)))

/-- The meaning of UMULH: its rule on the values of its operands, as one instruction (R183, R274). -/
def execUmulh (rd rn rm : RegIdx) (s : State) : Result :=
  runInstr (.umulh rd rn rm) (umulhRule rd (s.reg rn) (s.reg rm)) s

/-! ## Divide -/

/-- `sdiv(a, b)`: the exact quotient rounded toward zero, modulo 2^64 (R187 b, c). -/
def signedQuotient (a b : Word) : Word := BitVec.ofInt 64 (Int.tdiv a.toInt b.toInt)

/-- `floor(uint(a) / uint(b))` (R187 d). -/
def unsignedQuotient (a b : Word) : Word := BitVec.ofNat 64 (a.toNat / b.toNat)

/-- The rule of SDIV: a zero divisor raises `DivideByZero`, whatever `Rd` is (R184, R187). -/
def sdivRule (rd : RegIdx) (vn vm : Word) : Executed :=
  if vm = 0 then .raises .divideByZero 0 else .done (Effect.write rd (signedQuotient vn vm))

/-- The meaning of SDIV: its rule on the values of its operands, as one instruction (R184, R274). -/
def execSdiv (rd rn rm : RegIdx) (s : State) : Result :=
  runInstr (.sdiv rd rn rm) (sdivRule rd (s.reg rn) (s.reg rm)) s

/-- The rule of UDIV: a zero divisor raises `DivideByZero`, whatever `Rd` is (R185, R187). -/
def udivRule (rd : RegIdx) (vn vm : Word) : Executed :=
  if vm = 0 then .raises .divideByZero 0 else .done (Effect.write rd (unsignedQuotient vn vm))

/-- The meaning of UDIV: its rule on the values of its operands, as one instruction (R185, R274). -/
def execUdiv (rd rn rm : RegIdx) (s : State) : Result :=
  runInstr (.udiv rd rn rm) (udivRule rd (s.reg rn) (s.reg rm)) s

/-! ## Shift -/

/-- The rule of LSL: `x[Rd] <- (vn << shamt) mod 2^64` (R188). -/
def lslRule (rd : RegIdx) (shamt : BitVec 6) (vn : Word) : Executed := .done (Effect.write rd (vn <<< shamt.toNat))

/-- The meaning of LSL: its rule on the values of its operands, as one instruction (R188, R274). -/
def execLsl (rd rn : RegIdx) (shamt : BitVec 6) (s : State) : Result :=
  runInstr (.lsl rd rn shamt) (lslRule rd shamt (s.reg rn)) s

/-- The rule of LSR: `x[Rd] <- uint(vn) >> shamt`, zeros enter at bit 63 (R189). -/
def lsrRule (rd : RegIdx) (shamt : BitVec 6) (vn : Word) : Executed := .done (Effect.write rd (vn >>> shamt.toNat))

/-- The meaning of LSR: its rule on the values of its operands, as one instruction (R189, R274). -/
def execLsr (rd rn : RegIdx) (shamt : BitVec 6) (s : State) : Result :=
  runInstr (.lsr rd rn shamt) (lsrRule rd shamt (s.reg rn)) s

end Sys2Proof.Machine
end

