-- ==== Sys2Proof/Machine/System.lean ====
section
/-! DEFINITION. EXIT (45_system.md R260). Each instruction has its rule, what
its Execute step produces from the resolved operand values, and its meaning, the rule run as one sequential
instruction (46_pipeline.md R274). The pipelined Execute step runs the same rule (Machine/Execute.lean). -/

namespace Sys2Proof.Machine

/-- The rule of EXIT: `program_ended <- 1` and nothing else (R260). -/
def exitRule : Executed := .done { ended := true }

/-- The meaning of EXIT: its rule on the values of its operands, as one instruction (R260, R274). -/
def execExit (s : State) : Result := runInstr .exit exitRule s

end Sys2Proof.Machine
end

