-- ==== Sys2Proof/Machine/Dispatch.lean ====
section
/-! DEFINITION. One arm per instruction: its meaning as one instruction of the reference semantics
(46_pipeline.md R274), in the order of spec/opcode_table.json. -/

namespace Sys2Proof.Machine

def exec (i : Instr) (s : State) : Host.Outcome State Fault Refusal :=
  match i with
  | .b disp => Sys2Proof.Machine.execB disp s
  | .sturb rt rn disp => Sys2Proof.Machine.execSturb rt rn disp s
  | .ldurb rt rn disp => Sys2Proof.Machine.execLdurb rt rn disp s
  | .bCond cond disp => Sys2Proof.Machine.execBCond cond disp s
  | .sturh rt rn disp => Sys2Proof.Machine.execSturh rt rn disp s
  | .ldurh rt rn disp => Sys2Proof.Machine.execLdurh rt rn disp s
  | .and rd rn rm => Sys2Proof.Machine.execAnd rd rn rm s
  | .add rd rn rm => Sys2Proof.Machine.execAdd rd rn rm s
  | .addi rd rn imm => Sys2Proof.Machine.execAddi rd rn imm s
  | .andi rd rn imm => Sys2Proof.Machine.execAndi rd rn imm s
  | .bl disp => Sys2Proof.Machine.execBl disp s
  | .sdiv rd rn rm => Sys2Proof.Machine.execSdiv rd rn rm s
  | .udiv rd rn rm => Sys2Proof.Machine.execUdiv rd rn rm s
  | .mul rd rn rm => Sys2Proof.Machine.execMul rd rn rm s
  | .smulh rd rn rm => Sys2Proof.Machine.execSmulh rd rn rm s
  | .umulh rd rn rm => Sys2Proof.Machine.execUmulh rd rn rm s
  | .orr rd rn rm => Sys2Proof.Machine.execOrr rd rn rm s
  | .adds rd rn rm => Sys2Proof.Machine.execAdds rd rn rm s
  | .addis rd rn imm => Sys2Proof.Machine.execAddis rd rn imm s
  | .orri rd rn imm => Sys2Proof.Machine.execOrri rd rn imm s
  | .cbz rt disp => Sys2Proof.Machine.execCbz rt disp s
  | .cbnz rt disp => Sys2Proof.Machine.execCbnz rt disp s
  | .sturw rt rn disp => Sys2Proof.Machine.execSturw rt rn disp s
  | .ldursw rt rn disp => Sys2Proof.Machine.execLdursw rt rn disp s
  | .stxr rt rn disp => Sys2Proof.Machine.execStxr rt rn disp s
  | .ldxr rt rn disp => Sys2Proof.Machine.execLdxr rt rn disp s
  | .eor rd rn rm => Sys2Proof.Machine.execEor rd rn rm s
  | .sub rd rn rm => Sys2Proof.Machine.execSub rd rn rm s
  | .subi rd rn imm => Sys2Proof.Machine.execSubi rd rn imm s
  | .eori rd rn imm => Sys2Proof.Machine.execEori rd rn imm s
  | .movz rd imm slot => Sys2Proof.Machine.execMovz rd imm slot s
  | .lsr rd rn shamt => Sys2Proof.Machine.execLsr rd rn shamt s
  | .lsl rd rn shamt => Sys2Proof.Machine.execLsl rd rn shamt s
  | .br rn => Sys2Proof.Machine.execBr rn s
  | .ands rd rn rm => Sys2Proof.Machine.execAnds rd rn rm s
  | .subs rd rn rm => Sys2Proof.Machine.execSubs rd rn rm s
  | .subis rd rn imm => Sys2Proof.Machine.execSubis rd rn imm s
  | .andis rd rn imm => Sys2Proof.Machine.execAndis rd rn imm s
  | .movk rd imm slot => Sys2Proof.Machine.execMovk rd imm slot s
  | .stur rt rn disp => Sys2Proof.Machine.execStur rt rn disp s
  | .ldur rt rn disp => Sys2Proof.Machine.execLdur rt rn disp s
  | .exit => Sys2Proof.Machine.execExit s

end Sys2Proof.Machine
end

