-- ==== Sys2Proof/Machine/Execute.lean ====
section
/-! DEFINITION. The Execute stage of both modes (46_pipeline.md R271, R280): the rule of the record in the E
buffer, applied to the operand values the buffer holds. -/

namespace Sys2Proof.Machine

/-- The rule of an instruction on the resolved operand values of the E buffer `e`, in a state whose flags and
data memory it reads (R280). `none`: the buffer lacks the value of an operand the instruction reads, which
"must not be read" (10_state.md R38). -/
def executeInstr (i : Instr) (e : ExecBuf) (s : State) : Option Executed :=
  match i with
  | .b disp => some (bRule disp e.ipc)
  | .sturb _ _ disp => e.withNT (sturbRule s disp)
  | .ldurb rt _ disp => e.withN (ldurbRule s rt disp)
  | .bCond cond disp => some (bCondRule cond disp e.ipc s.flags)
  | .sturh _ _ disp => e.withNT (sturhRule s disp)
  | .ldurh rt _ disp => e.withN (ldurhRule s rt disp)
  | .and rd _ _ => e.withNM (andRule rd)
  | .add rd _ _ => e.withNM (addRule rd)
  | .addi rd _ imm => e.withN (addiRule rd imm)
  | .andi rd _ imm => e.withN (andiRule rd imm)
  | .bl disp => some (blRule disp e.ipc)
  | .sdiv rd _ _ => e.withNM (sdivRule rd)
  | .udiv rd _ _ => e.withNM (udivRule rd)
  | .mul rd _ _ => e.withNM (mulRule rd)
  | .smulh rd _ _ => e.withNM (smulhRule rd)
  | .umulh rd _ _ => e.withNM (umulhRule rd)
  | .orr rd _ _ => e.withNM (orrRule rd)
  | .adds rd _ _ => e.withNM (addsRule rd)
  | .addis rd _ imm => e.withN (addisRule rd imm)
  | .orri rd _ imm => e.withN (orriRule rd imm)
  | .cbz _ disp => e.withT (cbzRule disp e.ipc)
  | .cbnz _ disp => e.withT (cbnzRule disp e.ipc)
  | .sturw _ _ disp => e.withNT (sturwRule s disp)
  | .ldursw rt _ disp => e.withN (ldurswRule s rt disp)
  | .stxr _ _ disp => e.withNT (stxrRule s disp)
  | .ldxr rt _ disp => e.withN (ldxrRule s rt disp)
  | .eor rd _ _ => e.withNM (eorRule rd)
  | .sub rd _ _ => e.withNM (subRule rd)
  | .subi rd _ imm => e.withN (subiRule rd imm)
  | .eori rd _ imm => e.withN (eoriRule rd imm)
  | .movz rd imm slot => some (movzRule rd imm slot)
  | .lsr rd _ shamt => e.withN (lsrRule rd shamt)
  | .lsl rd _ shamt => e.withN (lslRule rd shamt)
  | .br _ => e.withN brRule
  | .ands rd _ _ => e.withNM (andsRule rd)
  | .subs rd _ _ => e.withNM (subsRule rd)
  | .subis rd _ imm => e.withN (subisRule rd imm)
  | .andis rd _ imm => e.withN (andisRule rd imm)
  | .movk rd imm slot => e.withT (movkRule rd imm slot)
  | .stur _ _ disp => e.withNT (sturRule s disp)
  | .ldur rt _ disp => e.withN (ldurRule s rt disp)
  | .exit => some exitRule

/-- The rule of an unrecognized word: "no operation performed", no state mutated (45_system.md R261). -/
def unrecognizedRule : Executed := .done {}

/-- The rule of the invalid-fetch marker: `raise FetchOutOfRange(ipc)` (45_system.md R263, R331). -/
def invalidFetchRule : Executed := .raises .fetchOutOfRange 0

/-- What the Execute step of a record produces (R280). -/
def executeRecord (r : Record) (e : ExecBuf) (s : State) : Option Executed :=
  match r with
  | .instr i => executeInstr i e s
  | .unrecognized => some unrecognizedRule
  | .invalidFetch => some invalidFetchRule

end Sys2Proof.Machine
end

