-- ==== Sys2Proof/Machine/Hazard.lean ====
section
/-! DEFINITION. The hazard detector and the forwarding mux (47_hazards_forwarding.md R300 to R319): pipelined
mode only. -/

namespace Sys2Proof.Machine

/-- The dependency predicates `raw_n`, `raw_m`, `raw_t` (R303, R304). -/
structure Raw where
  n : Bool
  m : Bool
  t : Bool
  deriving DecidableEq, Repr

/-- Whether the formats of consumer and producer let `HAZARD_SCOPE` see a dependency on path n or m: any pair
under `full`, "both share the same format" under `literal` (R303, R304). -/
def scopeSeesNM (scope : HazardScope) (consumer producer : Record) : Bool :=
  match scope with
  | .full => true
  | .literal => Record.format consumer == Record.format producer

/-- The same for path t: any pair under `full`, format C on format R under `literal` (R303, R304). -/
def scopeSeesT (scope : HazardScope) (consumer producer : Record) : Bool :=
  match scope with
  | .full => true
  | .literal => Record.format consumer == some .C && Record.format producer == some .R

/-- The dependencies of a consumer in D on the producer in E (R303, R304). A producer without a destination,
or with destination 31, has none (R302). -/
def rawOf (scope : HazardScope) (consumer producer : Record) : Raw :=
  match Record.liveDest producer with
  | none => ⟨false, false, false⟩
  | some d =>
    { n := Record.readsN consumer == some d && scopeSeesNM scope consumer producer
      m := Record.readsM consumer == some d && scopeSeesNM scope consumer producer
      t := Record.readsT consumer == some d && scopeSeesT scope consumer producer }

/-- The predicates on the D and E buffers; all false if either is a bubble (R303). -/
def State.raw (s : State) : Raw :=
  match s.decodeBuf, s.executeBuf with
  | some d, some e => rawOf s.params.hazardScope d.decoded e.record
  | _, _ => ⟨false, false, false⟩

/-- The closed set of outcomes of the hazard step (R305, R316). -/
inductive HazardOutcome where
  | stall (n m t : Bool)
  | flush
  | stallT
  | proceed
  deriving DecidableEq, Repr

/-- A pending flush is taken before a dependency on path t is looked at. Under `belowFlush` it always is (R305,
R309: StallT only when "no branch was taken"); under `aboveFlush` a dependency on path t stalls first, and the
flush waits as in R306 (R318, 70_reset_and_hazards.md R365). Log 20. -/
def State.flushesNow (s : State) : Bool :=
  s.branchTaken && (!s.raw.t || s.params.pathTPriority == .belowFlush)

/-- The decision procedure with its priority: stall, flush, stall on path t, none (R305); under `aboveFlush` the
stall on path t stands before the flush (R318). `proceed` is the outcome the spec calls None. -/
def State.hazardOutcome (s : State) : HazardOutcome :=
  if s.raw.n || s.raw.m then .stall s.raw.n s.raw.m s.raw.t
  else if s.flushesNow then .flush
  else if s.raw.t then .stallT
  else .proceed

/-- A stall: `W <- E`, a bubble in E, D and F held, the hazard flags raised; a pending flush waits (R306,
R309). -/
def State.stallWith (s : State) (n m t : Bool) : State :=
  { s with writebackBuf := s.executeBuf, executeBuf := none, hzN := n, hzM := m, hzT := t }

/-- The flush of a taken branch: `W <- E`, bubbles in E and D, the latch cleared; F is left for the next Fetch
to overwrite (R308). -/
def State.flush (s : State) : State :=
  { s with
    writebackBuf := s.executeBuf
    executeBuf := none
    decodeBuf := none
    branchTaken := false }

/-- What D receives from F: the next fetched word, not yet decoded, with no latched value (R310). -/
def FetchBuf.toDecode (f : FetchBuf) : DecodeBuf :=
  { ipc := f.ipc, word := f.word, record := none, fwdN := none, fwdM := none, fwdT := none }

/-- The default outcome: `W <- E`, E receives D with its operands resolved, D receives F (R310). -/
def State.advance (s : State) : State :=
  { s with
    writebackBuf := s.executeBuf
    executeBuf := s.decodeBuf.map s.resolve
    decodeBuf := s.fetchBuf.map FetchBuf.toDecode }

/-- P7, the hazard step: exactly one outcome is applied (R305). -/
def State.hazardStep (s : State) : State :=
  match s.hazardOutcome with
  | .stall n m t => s.stallWith n m t
  | .flush => s.flush
  | .stallT => s.stallWith false false true
  | .proceed => s.advance

/-- Some hazard flag is set: Fetch is held and the Forwarding step acts (R307, R311). -/
def State.anyHazard (s : State) : Bool := s.hzN || s.hzM || s.hzT

/-- What the mux can forward: the write request of W, if W is no format D instruction and its register is not
31; loads are never forwarded (R302, R311, R314). -/
def State.forwardable (s : State) : Option WriteReq :=
  match s.writebackBuf with
  | some w =>
    match w.wb with
    | some q => if q.reg ≠ zeroReg ∧ Record.format w.record ≠ some .D then some q else none
    | none => none
  | none => none

/-- One output of the mux: the latch takes the value if its select is set and the path reads the register
(R311). -/
def latchPath (select : Bool) (path : Option RegIdx) (q : WriteReq) (old : Option Word) : Option Word :=
  if select = true ∧ path = some q.reg then some q.value else old

/-- The three latches of the held instruction (R311). -/
def State.latch (s : State) (q : WriteReq) (d : DecodeBuf) : DecodeBuf :=
  { d with
    fwdN := latchPath s.hzN (Record.readsN d.decoded) q d.fwdN
    fwdM := latchPath s.hzM (Record.readsM d.decoded) q d.fwdM
    fwdT := latchPath s.hzT (Record.readsT d.decoded) q d.fwdT }

/-- The D buffer after the Forwarding step. -/
def State.forwardedDecode (s : State) : Option DecodeBuf :=
  match s.forwardable with
  | some q => s.decodeBuf.map (s.latch q)
  | none => s.decodeBuf

/-- P3, the Forwarding step: acts only when a hazard flag is set, and always leaves all three 0 (R279, R311). -/
def State.forwardStep (s : State) : State :=
  if s.anyHazard then
    { s with decodeBuf := s.forwardedDecode, hzN := false, hzM := false, hzT := false }
  else s

end Sys2Proof.Machine
end

