-- ==== Sys2Proof/Machine/Pipeline.lean ====
section
/-! DEFINITION. One cycle of pipelined mode, P1 to P7 (46_pipeline.md R276). -/

namespace Sys2Proof.Machine

/-- P1, the Fetch step: held while any hazard flag is set (R277). -/
def State.fetchStep (s : State) : State := if s.anyHazard then s else s.fetchNext

/-- P2, the Decode step: compute the record of the word in D (R278). -/
def State.decodeStep (s : State) : State :=
  { s with decodeBuf := s.decodeBuf.map fun d => { d with record := some (decodeFetched d.word) } }

/-- Whether a rule's answer sets `branch_taken` (43_branch.md R211). -/
def Executed.isTaken (x : Executed) : Bool :=
  match x with
  | .done eff => eff.branch.isTaken
  | .raises _ _ => false

/-- P4 on the E buffer `e` whose rule answered `x`: the Execute action, and the latch `branch_taken` of a taken
branch, which only pipelined mode uses (R211, 10_state.md R42). -/
def State.executeLatched (s : State) (e : ExecBuf) (x : Executed) : State :=
  { s.executeWith e x with branchTaken := s.branchTaken || x.isTaken }

/-- P4, the Execute step (R280). -/
def State.executeStep (s : State) : Result :=
  match s.executeBuf with
  | none => .next s
  | some e =>
    match executeRecord e.record e s with
    | some x => .next (s.executeLatched e x)
    | none => .refused .operandUnresolved

/-- P6: `cycle_count` counts every cycle (R285). -/
def State.countCycle (s : State) : State := { s with cycleCount := s.cycleCount + 1 }

/-- P5 to P7 after Execute: Writeback and the count always run, the hazard step only if no fault was raised
(R282, R284). -/
def State.finishCycle (s : State) : State :=
  if s.fault.isSome then s.commitWriteback.countCycle else s.commitWriteback.countCycle.hazardStep

/-- P1 to P3. -/
def State.frontHalf (s : State) : State := s.fetchStep.decodeStep.forwardStep

/-- One cycle of pipelined mode of a core that is not halted (R276). -/
def State.pipeCycle (s : State) : Result :=
  match s.frontHalf.executeStep with
  | .next t => .next t.finishCycle
  | .fault c => .fault c
  | .refused r => .refused r

/-- A step of pipelined mode: nothing if the run has ended (R288), else one cycle. -/
def State.pipeStep (s : State) : Result := if s.halted then .next s else s.pipeCycle

end Sys2Proof.Machine
end

