-- ==== Sys2Proof/Machine/Stages.lean ====
section
/-! DEFINITION. Sequential mode (46_pipeline.md R272): one stage a cycle (`seqCycle`), and one whole instruction
at an instruction boundary (`seqInstruction`). "Both are the same machine." -/

namespace Sys2Proof.Machine

/-- Which stage is next, found from the buffers (R272). Of several occupied buffers, which no run reaches, the
oldest instruction goes first (DESIGN CHOICE, log entry 5). -/
inductive SeqPhase where
  | fetch
  | decode
  | execute
  | writeback
  deriving DecidableEq, Repr

/-- "nothing occupied means S1 is next, F occupied S2, D occupied S3, E occupied S4" (R272). -/
def State.seqPhase (s : State) : SeqPhase :=
  if s.executeBuf.isSome then .writeback
  else if s.decodeBuf.isSome then .execute
  else if s.fetchBuf.isSome then .decode
  else .fetch

/-- S1 (R272). -/
def State.seqFetch (s : State) : State := { s.fetchNext with cycleCount := s.cycleCount + 1 }

/-- S2 (R272). -/
def State.seqDecode (s : State) : State :=
  { s with
    decodeBuf := s.fetchBuf.map fun f =>
      { ipc := f.ipc, word := f.word, record := some (decodeFetched f.word)
        fwdN := none, fwdM := none, fwdT := none }
    fetchBuf := none
    cycleCount := s.cycleCount + 1 }

/-- The loading half of S3: `E <- D` with operands from the register file, `D <- bubble`, one cycle (R272). -/
def State.seqLoad (s : State) : State :=
  { s with
    executeBuf := s.decodeBuf.map fun d => s.loadOperands d.decoded d.ipc
    decodeBuf := none
    cycleCount := s.cycleCount + 1 }

/-- The other half of S3: apply the rule to E (R272). -/
def State.seqApply (s : State) : Result :=
  match s.executeBuf with
  | none => .next s
  | some e =>
    match executeRecord e.record e s with
    | some x => .next (s.executeWith e x)
    | none => .refused .operandUnresolved

/-- The instruction boundary of sequential mode: F is empty, D and E are bubbles (R272). -/
def State.atBoundary (s : State) : Bool := s.seqPhase == .fetch

/-- No stage runs any more: a fault ends the run at once (no S4), `program_ended` is tested only at the top of
the loop, so EXIT's own S4 still runs (R270, R272, R275). -/
def State.seqStopped (s : State) : Bool := s.fault.isSome || (s.programEnded && s.atBoundary)

/-- One cycle of sequential mode: one stage of one instruction (R272); a stopped core takes no step (R288). -/
def State.seqCycle (s : State) : Result :=
  if s.seqStopped then .next s
  else
    match s.seqPhase with
    | .fetch => .next s.seqFetch
    | .decode => .next s.seqDecode
    | .execute => s.seqLoad.seqApply
    | .writeback => .next s.seqWriteback

/-- Go on with the answer of an earlier stage. -/
def andThen (r : Result) (k : State → Result) : Result :=
  match r with
  | .next s => k s
  | .fault c => .fault c
  | .refused c => .refused c

/-- `n` cycles of sequential mode. -/
def State.seqCycles (s : State) (n : Nat) : Result :=
  match n with
  | 0 => .next s
  | k + 1 => andThen s.seqCycle fun t => t.seqCycles k

/-- The record at the PC (R274: "fetch at `pc`; … decode"). -/
def State.nextRecord (s : State) : Record := decodeFetched (imemRead s.imem s.pc)

/-- One instruction of sequential mode at an instruction boundary (R272, R274): an instruction runs its meaning,
an unrecognized word does nothing for four cycles (45_system.md R261), the invalid-fetch marker faults in its
third cycle (R263). -/
def State.seqInstruction (s : State) : Result :=
  match s.nextRecord with
  | .instr i => exec i s
  | .unrecognized => .next (s.runRecord .unrecognized unrecognizedRule)
  | .invalidFetch => .next (s.runRecord .invalidFetch invalidFetchRule)

/-- How many stages of the instruction in progress are left. -/
def SeqPhase.stagesLeft (p : SeqPhase) : Nat :=
  match p with
  | .fetch => 4
  | .decode => 3
  | .execute => 2
  | .writeback => 1

/-- A step of sequential mode: nothing if the run has ended (R288), else the next instruction, or the rest of one
that a stage-by-stage host left in progress (log entry 5). -/
def State.seqStep (s : State) : Result :=
  if s.seqStopped then .next s
  else if s.atBoundary then s.seqInstruction
  else s.seqCycles s.seqPhase.stagesLeft

end Sys2Proof.Machine
end

