-- ==== Sys2Proof/Machine/Step.lean ====
section
/-! DEFINITION. One step of the core (46_pipeline.md R270): one instruction in sequential mode, one cycle in
pipelined mode. -/

namespace Sys2Proof.Machine

/-- The controller's loop body (R270); a halted core takes no step (R288, U23). -/
def step (s : State) : Host.Outcome State Fault Refusal :=
  match s.params.mode with
  | .sequential => s.seqStep
  | .pipelined => s.pipeStep

/-- `s` with the instruction whose bits are `w` loaded where `step` fetches its next instruction. -/
def State.withFetchWord (s : State) (nbits w : Nat) : State := s.loadNext (tableWord nbits w)

end Sys2Proof.Machine
end

