-- ==== Sys2Proof/Machine/Trace.lean ====
section
/-! DEFINITION. The trace events of a step (60_exceptions.md R343). They are an output only: no rule reads them
and they are not state, so they are a function of the state that the step starts from. Their content beyond
R343's table is open (U26); the conventions are in log entry 9. -/

namespace Sys2Proof.Machine

/-- An operand path of the forwarding mux (R343). -/
inductive Path where
  | n
  | m
  | t
  deriving DecidableEq, Repr

/-- The fourteen event kinds (R343). `valid` of `fetched` is `word.isSome`. -/
inductive TraceEvent where
  | fetched (ipc : Word) (word : Option IWord)
  | decoded (ipc : Word) (record : Instr)
  | decodeError (ipc : Word) (word : IWord)
  | forwarded (path : Path) (reg : RegIdx) (value : Word)
  | result (ipc : Word) (reg : RegIdx) (value : Word)
  | memAccess (ipc : Word) (kind : AccessKind) (addr : Word) (bytes : Nat) (value : Word)
  | flagsWritten (ipc : Word) (flags : Flags)
  | branchTaken (ipc target : Word)
  | branchNotTaken (ipc : Word) (reason : NotTaken)
  | noOperation (ipc : Word)
  | ended (ipc : Word)
  | faulted (cause : Fault) (ipc info : Word)
  | committed (reg : RegIdx) (value : Word)
  | hazard (outcome : HazardOutcome)
  deriving DecidableEq, Repr

/-- The event of a Fetch that happens. -/
def FetchBuf.events (f : FetchBuf) : List TraceEvent := [.fetched f.ipc f.word]

/-- The event of the Decode step on a fetched word; the invalid-fetch marker has none (45_system.md R264). -/
def decodeEvents (ipc : Word) (word : Option IWord) : List TraceEvent :=
  match word with
  | none => []
  | some w =>
    match decode w with
    | .ok i => [.decoded ipc i]
    | .error _ => [.decodeError ipc w]

/-- The events of the Forwarding step, once per latched path. -/
def latchEvents (select : Bool) (path : Option RegIdx) (q : WriteReq) (name : Path) : List TraceEvent :=
  if select = true ∧ path = some q.reg then [.forwarded name q.reg q.value] else []

/-- P3. -/
def State.forwardEvents (s : State) : List TraceEvent :=
  match s.forwardable, s.decodeBuf with
  | some q, some d =>
    latchEvents s.hzN (Record.readsN d.decoded) q .n ++ latchEvents s.hzM (Record.readsM d.decoded) q .m
      ++ latchEvents s.hzT (Record.readsT d.decoded) q .t
  | _, _ => []

/-- The result of an instruction with a write request. -/
def Effect.resultEvents (ipc : Word) (eff : Effect) : List TraceEvent :=
  match eff.wb with
  | some q => [.result ipc q.reg q.value]
  | none => []

/-- The data access of a load or store. -/
def Effect.accessEvents (ipc : Word) (eff : Effect) : List TraceEvent :=
  match eff.access with
  | some a => [.memAccess ipc a.kind a.addr a.size.bytes a.value]
  | none => []

/-- The new flags of a flag-setting instruction or a taken B.cond. -/
def Effect.flagEvents (ipc : Word) (eff : Effect) : List TraceEvent :=
  match eff.flags with
  | some f => [.flagsWritten ipc f]
  | none => []

/-- What a branch did. -/
def BranchOutcome.events (ipc : Word) (b : BranchOutcome) : List TraceEvent :=
  match b with
  | .notBranch => []
  | .taken target => [.branchTaken ipc target]
  | .notTaken reason => [.branchNotTaken ipc reason]

/-- The events of the Execute step. -/
def Executed.events (r : Record) (ipc : Word) (x : Executed) : List TraceEvent :=
  match x with
  | .raises cause info => [.faulted cause ipc info]
  | .done eff =>
    eff.resultEvents ipc ++ eff.accessEvents ipc ++ eff.flagEvents ipc ++ eff.branch.events ipc
      ++ (if r = .unrecognized then [.noOperation ipc] else [])
      ++ (if eff.ended then [.ended ipc] else [])

/-- P4 or S3, on a state whose E buffer is loaded. -/
def State.executeEvents (s : State) : List TraceEvent :=
  match s.executeBuf with
  | none => []
  | some e =>
    match executeRecord e.record e s with
    | some x => x.events e.record e.ipc
    | none => []

/-- P5 or S4 of the buffer that is written back: an event when it writes a register. -/
def commitEvents (w : Option ExecBuf) : List TraceEvent :=
  match w with
  | none => []
  | some b =>
    match b.wb with
    | some q => if q.reg = zeroReg then [] else [.committed q.reg q.value]
    | none => []

/-- The events of one stage of sequential mode. -/
def State.seqCycleEvents (s : State) : List TraceEvent :=
  if s.seqStopped then []
  else
    match s.seqPhase with
    | .fetch => s.fetched.events
    | .decode => match s.fetchBuf with
      | some f => decodeEvents f.ipc f.word
      | none => []
    | .execute => s.seqLoad.executeEvents
    | .writeback => commitEvents s.executeBuf

/-- The events of `n` cycles of sequential mode. -/
def State.seqEvents (s : State) (n : Nat) : List TraceEvent :=
  match n with
  | 0 => []
  | k + 1 =>
    s.seqCycleEvents ++ match s.seqCycle with
      | .next t => t.seqEvents k
      | .fault _ => []
      | .refused _ => []

/-- The events of P1 to P3. -/
def State.frontEvents (s : State) : List TraceEvent :=
  (if s.anyHazard then [] else s.fetched.events)
    ++ (match s.decodeBuf with
        | some d => decodeEvents d.ipc d.word
        | none => [])
    ++ s.fetchStep.decodeStep.forwardEvents

/-- The events of P5 to P7 after Execute. -/
def State.backEvents (s : State) : List TraceEvent :=
  commitEvents s.writebackBuf
    ++ (if s.fault.isSome then [] else [.hazard s.commitWriteback.countCycle.hazardOutcome])

/-- The events of one cycle of pipelined mode, in stage order. -/
def State.pipeEvents (s : State) : List TraceEvent :=
  if s.halted then []
  else
    s.frontEvents ++ s.frontHalf.executeEvents ++ match s.frontHalf.executeStep with
      | .next t => t.backEvents
      | .fault _ => []
      | .refused _ => []

/-- The trace events of the step from `s` (R343). -/
def trace (s : State) : List TraceEvent :=
  match s.params.mode with
  | .sequential => s.seqEvents s.seqPhase.stagesLeft
  | .pipelined => s.pipeEvents

end Sys2Proof.Machine
end

