-- ==== Sys2Proof/Safety.lean ====
section
/-! DEFINITION. The terms that claims use: how a run ends (60_exceptions.md R344), what a completed or faulting
instruction leaves as it was, the invariant of the core's state, and the state a pipelined core stands for
(46_pipeline.md R291). -/

namespace Sys2Proof.Machine

/-! ## How a run ends (R344) -/

/-- The run ended at EXIT (R344). -/
def State.EndedNormally (s : State) : Prop := s.programEnded = true ∧ s.fault = none

/-- The run was aborted by a fault (R344). -/
def State.Aborted (s : State) : Prop := s.fault.isSome = true ∧ s.programEnded = false

/-- The run goes on: neither has happened (46_pipeline.md R270). -/
def State.Running (s : State) : Prop := s.programEnded = false ∧ s.fault = none

/-! ## Frames -/

/-- Every register reads as before. -/
def SameRegs (s t : State) : Prop := ∀ r, t.reg r = s.reg r

/-- Every byte of data memory reads as before. -/
def SameMemory (s t : State) : Prop := ∀ a, t.dmem.read a = s.dmem.read a

/-- Register `rd` reads `v` and every other register reads as before; nothing is written if `rd` is 31 (10_state.md
R22). -/
def WritesReg (s t : State) (rd : RegIdx) (v : Word) : Prop :=
  ∀ r, t.reg r = if r = rd ∧ rd ≠ zeroReg then v else s.reg r

/-- The `n` bytes from `a` on read as the big-endian bytes of `v`, and every other byte reads as before (20_memory.md
R65). -/
def StoresBytes (s t : State) (a n : Nat) (v : Word) : Prop :=
  (∀ k, k < n → t.dmem.read (a + k) = storedByte n k v) ∧
  ∀ b, (b < a ∨ a + n ≤ b) → t.dmem.read b = s.dmem.read b

/-- What every instruction of the reference semantics leaves alone: the run's constants, and the hazard unit's and the
branch latch, which sequential mode does not use (46_pipeline.md R273). -/
structure KeepsControl (s t : State) : Prop where
  params : t.params = s.params
  imem : t.imem = s.imem
  hzN : t.hzN = s.hzN
  hzM : t.hzM = s.hzM
  hzT : t.hzT = s.hzT
  branchTaken : t.branchTaken = s.branchTaken

/-- A completed instruction: four cycles, all stage buffers empty, no fault recorded (46_pipeline.md R272). -/
structure Retired (s t : State) : Prop extends KeepsControl s t where
  fault : t.fault = s.fault
  fetchBuf : t.fetchBuf = none
  decodeBuf : t.decodeBuf = none
  executeBuf : t.executeBuf = none
  writebackBuf : t.writebackBuf = none
  cycleCount : t.cycleCount = s.cycleCount + 4

/-- A completed instruction that writes register `rd` with `v` and nothing else: flags, memory and `program_ended`
are as before and the PC has advanced by one. -/
structure Computes (s t : State) (rd : RegIdx) (v : Word) : Prop extends Retired s t where
  regs : WritesReg s t rd v
  flags : t.flags = s.flags
  memory : SameMemory s t
  pc : t.pc = s.pc + 1
  programEnded : t.programEnded = s.programEnded

/-- A completed instruction that writes register `rd` with `v`, and the flags with `f`, and nothing else. -/
structure ComputesFlags (s t : State) (rd : RegIdx) (v : Word) (f : Flags) : Prop extends Retired s t where
  regs : WritesReg s t rd v
  flags : t.flags = f
  memory : SameMemory s t
  pc : t.pc = s.pc + 1
  programEnded : t.programEnded = s.programEnded

/-- A completed instruction that writes no register, no memory and no flag and leaves the PC at `target`. -/
structure GoesTo (s t : State) (target : Word) : Prop extends Retired s t where
  regs : SameRegs s t
  flags : t.flags = s.flags
  memory : SameMemory s t
  pc : t.pc = target
  programEnded : t.programEnded = s.programEnded

/-- A completed taken B.cond: as `GoesTo`, and all four flags are 0 (10_state.md R29, 43_branch.md R218). -/
structure GoesToClearing (s t : State) (target : Word) : Prop extends Retired s t where
  regs : SameRegs s t
  flags : t.flags = ⟨false, false, false, false⟩
  memory : SameMemory s t
  pc : t.pc = target
  programEnded : t.programEnded = s.programEnded

/-- A completed BL: X30 gets the return index and the PC the target (43_branch.md R214). -/
structure Links (s t : State) (target : Word) : Prop extends Retired s t where
  regs : WritesReg s t linkReg (s.pc + 1)
  flags : t.flags = s.flags
  memory : SameMemory s t
  pc : t.pc = target
  programEnded : t.programEnded = s.programEnded

/-- A completed EXIT: `program_ended` is 1 and nothing else has changed (45_system.md R260). -/
structure Ends (s t : State) : Prop extends Retired s t where
  regs : SameRegs s t
  flags : t.flags = s.flags
  memory : SameMemory s t
  pc : t.pc = s.pc + 1
  programEnded : t.programEnded = true

/-- A completed store of the low `n` bytes of `v` at address `a`, and nothing else. -/
structure Stores (s t : State) (a n : Nat) (v : Word) : Prop extends Retired s t where
  regs : SameRegs s t
  flags : t.flags = s.flags
  memory : StoresBytes s t a n v
  pc : t.pc = s.pc + 1
  programEnded : t.programEnded = s.programEnded

/-- An instruction that took a fault: the record is stored, three cycles are counted, the PC is where Fetch left it, and
no register, flag, byte of memory or `program_ended` has changed (60_exceptions.md R335, 46_pipeline.md R272). -/
structure Faults (s t : State) (cause : Fault) (info : Word) : Prop extends KeepsControl s t where
  fault : t.fault = some { cause := cause, ipc := s.pc, info := info }
  regs : SameRegs s t
  flags : t.flags = s.flags
  memory : SameMemory s t
  pc : t.pc = s.pc + 1
  programEnded : t.programEnded = s.programEnded
  cycleCount : t.cycleCount = s.cycleCount + 3

/-- What the spec's rule line gives an instruction: its format, its opcode of `width` bits, the registers it reads on the
paths n, m and t and the register it writes (30_encoding.md R91, R102, 47_hazards_forwarding.md R301). -/
structure HasShape (i : Instr) (format : Format) (width opcode : Nat) (n m t dest : Option RegIdx) : Prop where
  format : i.format = format
  opcode : candidate width (encode i) = opcode
  readsN : readsN i = n
  readsM : readsM i = m
  readsT : readsT i = t
  dest : destOf i = dest

/-- A store of `n` bytes of `v` at `addr`, in range and out of range (44_loadstore.md R230, 20_memory.md R68). -/
def StoresOrFaults (i : Instr) (s : State) (addr : Word) (n : Nat) (v : Word) : Prop :=
  (addr.toNat + n ≤ s.params.dmemBytes → ∃ t, exec i s = .next t ∧ Stores s t addr.toNat n v) ∧
  (s.params.dmemBytes < addr.toNat + n → ∃ t, exec i s = .next t ∧ Faults s t .dataAddressOutOfRange addr)

/-- A load of `n` bytes at `addr` that puts `v` into `rt`, in range and out of range (44_loadstore.md R230, 20_memory.md
R68). -/
def LoadsOrFaults (i : Instr) (s : State) (addr : Word) (n : Nat) (rt : RegIdx) (v : Word) : Prop :=
  (addr.toNat + n ≤ s.params.dmemBytes → ∃ t, exec i s = .next t ∧ Computes s t rt v) ∧
  (s.params.dmemBytes < addr.toNat + n → ∃ t, exec i s = .next t ∧ Faults s t .dataAddressOutOfRange addr)

/-- The flag-setting instructions, whose mnemonic has the suffix S (10_state.md R28). -/
def setsFlags (i : Instr) : Prop :=
  match i with
  | .adds _ _ _ | .subs _ _ _ | .ands _ _ _ | .addis _ _ _ | .subis _ _ _ | .andis _ _ _ => True
  | .b _ | .sturb _ _ _ | .ldurb _ _ _ | .bCond _ _ | .sturh _ _ _ | .ldurh _ _ _ | .and _ _ _ | .add _ _ _
  | .addi _ _ _ | .andi _ _ _ | .bl _ | .sdiv _ _ _ | .udiv _ _ _ | .mul _ _ _ | .smulh _ _ _ | .umulh _ _ _
  | .orr _ _ _ | .orri _ _ _ | .cbz _ _ | .cbnz _ _ | .sturw _ _ _ | .ldursw _ _ _ | .stxr _ _ _ | .ldxr _ _ _
  | .eor _ _ _ | .sub _ _ _ | .subi _ _ _ | .eori _ _ _ | .movz _ _ _ | .lsr _ _ _ | .lsl _ _ _ | .br _
  | .movk _ _ _ | .stur _ _ _ | .ldur _ _ _ | .exit => False

/-! ## The invariant of the core's state -/

/-- Each operand path holds a value exactly if the record reads it (10_state.md R35, R38). -/
def ExecBuf.OperandsReady (e : ExecBuf) : Prop :=
  e.vn.isSome = (Record.readsN e.record).isSome ∧
  e.vm.isSome = (Record.readsM e.record).isSome ∧
  e.vt.isSome = (Record.readsT e.record).isSome

/-- Sequential mode: at most one of F, D, E is occupied, the hazard unit is idle, and after EXIT nothing younger is in
progress (46_pipeline.md R272, R273). -/
structure SeqIdle (s : State) : Prop where
  executeAlone : s.executeBuf.isSome = true → s.decodeBuf = none ∧ s.fetchBuf = none
  decodeAlone : s.decodeBuf.isSome = true → s.fetchBuf = none
  hazards : s.anyHazard = false
  branchTaken : s.branchTaken = false
  ended : s.programEnded = true → s.decodeBuf = none ∧ s.fetchBuf = none

/-- The invariant of the core's state, in both modes. -/
structure Inv (s : State) : Prop where
  params : s.params.wf
  memory : s.dmem.wf
  inMemory : ∀ c ∈ s.dmem, c.1 < s.params.dmemBytes
  operands : ∀ e, s.executeBuf = some e → e.OperandsReady
  latched : ∀ d, s.decodeBuf = some d → ∀ r, d.record = some r → r = decodeFetched d.word
  oneEnd : s.programEnded = true → s.fault = none
  sequential : s.params.mode = .sequential → SeqIdle s

/-! ## The state a pipelined core stands for (46_pipeline.md R291) -/

/-- The index of the next instruction to execute: the one in E, else the target of a pending taken branch, else the one in
D, else the one Fetch will read (46_pipeline.md R281, 47_hazards_forwarding.md R308). -/
def State.nextIndex (s : State) : Word :=
  match s.executeBuf with
  | some e => e.ipc
  | none =>
    if s.branchTaken then s.pc
    else match s.decodeBuf with
      | some d => d.ipc
      | none => s.pc

/-- The sequential core, at an instruction boundary, that has executed what this pipelined core has executed: the
request in W is committed, nothing younger has had any effect. -/
def State.drained (s : State) : State :=
  { s.commitWriteback with
    params := { s.params with mode := .sequential }
    pc := s.nextIndex
    fetchBuf := none
    decodeBuf := none
    executeBuf := none
    writebackBuf := none
    hzN := false
    hzM := false
    hzT := false
    branchTaken := false }

/-- Two cores agree on everything a program computes: registers, data memory, flags, `program_ended` and `fault` (R291). -/
structure Agree (s t : State) : Prop where
  regs : ∀ r, s.reg r = t.reg r
  memory : s.dmem = t.dmem
  flags : s.flags = t.flags
  programEnded : s.programEnded = t.programEnded
  fault : s.fault = t.fault

/-- The instruction in E and its operands: it is what instruction memory holds at its `ipc`, and its operands are the
values of the register file once W has committed (47_hazards_forwarding.md R315). -/
structure ExecuteExact (s : State) (e : ExecBuf) : Prop where
  record : e.record = decodeFetched (imemRead s.imem e.ipc)
  vn : e.vn = s.commitWriteback.resolvePath (Record.readsN e.record) none
  vm : e.vm = s.commitWriteback.resolvePath (Record.readsM e.record) none
  vt : e.vt = s.commitWriteback.resolvePath (Record.readsT e.record) none
  wb : e.wb = none

/-- The instruction in D: it is what instruction memory holds at its `ipc`, and nothing is latched. -/
structure DecodeExact (s : State) (d : DecodeBuf) : Prop where
  word : d.word = imemRead s.imem d.ipc
  record : ∀ r, d.record = some r → r = decodeFetched d.word
  fwdN : d.fwdN = none
  fwdM : d.fwdM = none
  fwdT : d.fwdT = none

/-- Right after a flush: D and E hold bubbles, the latch is clear, and the next cycle fetches the word at `target` into D with a bubble
still in E (47_hazards_forwarding.md R308, 43_branch.md R220). -/
def FlushedTo (target : Word) (t : State) : Prop :=
  t.executeBuf = none ∧ t.decodeBuf = none ∧ t.branchTaken = false ∧ t.pc = target ∧
  ∃ u, step t = .next u ∧ u.executeBuf = none ∧ u.pc = target + 1 ∧
    u.decodeBuf = some { ipc := target, word := imemRead t.imem target, record := none,
                         fwdN := none, fwdM := none, fwdT := none }

/-- A cycle boundary of a run of pipelined mode: with no stall pending the stages hold consecutive instructions and no
flush is pending; with a stall pending E holds a bubble, D the held instruction and F the word behind it
(46_pipeline.md R287, 47_hazards_forwarding.md R306, R307, R310). -/
structure PipeInv (s : State) : Prop where
  execute : ∀ e, s.executeBuf = some e → ExecuteExact s e
  decode : ∀ d, s.decodeBuf = some d → DecodeExact s d
  flushed : s.anyHazard = false → s.branchTaken = false
  front : s.anyHazard = false → ∀ d, s.decodeBuf = some d → s.pc = d.ipc + 1
  back : s.anyHazard = false → ∀ e, s.executeBuf = some e → ∃ d, s.decodeBuf = some d ∧ d.ipc = e.ipc + 1
  heldExecute : s.anyHazard = true → s.executeBuf = none
  held : s.anyHazard = true → ∃ d f, s.decodeBuf = some d ∧ s.fetchBuf = some f ∧ f.word = imemRead s.imem f.ipc ∧
    (s.branchTaken = false → f.ipc = d.ipc + 1 ∧ s.pc = f.ipc + 1)

end Sys2Proof.Machine
end

