-- ==== Sys2Proof/Certificates/Slice0/Obligations.lean ====
section
/-! DEFINITION. The statements for the provers. `R<n>` is a numbered rule of spec/. A statement about `exec` is about
the reference semantics of one instruction (46_pipeline.md R274); the statements about `step` carry it to both modes. -/

open Sys2Proof Sys2Proof.Machine

/-! ## Encoding -/

/-- Decode and encode agree: the canonical word of every instruction decodes to it, with every operand at every value the
encoding admits (30_encoding.md R105). -/
def Obligations.DecodeEncodeRoundTrip : Prop :=
  ∀ i : Instr, i.wf = true → decode (encode i) = .ok i

/-- R105: re-encoding the record of a decoded word reproduces the word, but for the bits that decode ignores; on a canonical
word it reproduces every bit. -/
def Obligations.ReencodingReproducesTheWord : Prop :=
  ∀ (w : IWord) (i : Instr), decode w = .ok i →
    i.wf = true ∧ decode (encode i) = .ok i ∧
    encode i &&& ~~~i.ignoredBits = w &&& ~~~i.ignoredBits ∧
    i.canonical (encode i) = true ∧
    (i.canonical w = true → encode i = w)

/-- R104: words that differ only in ignored bits decode alike, the encoder's words are canonical, and opcode 0x4D6 is SDIV for
`shamt` 2, UDIV for `shamt` 3 and unrecognized for every other `shamt`. -/
def Obligations.IgnoredBitsAndDivideRefinement : Prop :=
  (∀ (w v : IWord) (i : Instr), decode w = .ok i → w &&& ~~~i.ignoredBits = v &&& ~~~i.ignoredBits → decode v = .ok i) ∧
  (∀ i : Instr, i.canonical (encode i) = true) ∧
  ∀ (w : IWord) (rd rn rm : RegIdx), w &&& 0xFFE00000 = 0x9AC00000 →
    rd = w.extractLsb' 0 5 → rn = w.extractLsb' 5 5 → rm = w.extractLsb' 16 5 →
    decode w =
      if w.extractLsb' 10 6 = 2 then .ok (.sdiv rd rn rm)
      else if w.extractLsb' 10 6 = 3 then .ok (.udiv rd rn rm)
      else .error .divideShamt

/-- No row of the opcode table is a prefix of another (30_encoding.md R103, which the spec marks as derived). -/
def Obligations.OpcodeTableIsPrefixFree : Prop :=
  opcodeTable.length = 41 ∧
  opcodeTable.Pairwise fun a b =>
    a.value >>> (a.width - min a.width b.width) ≠ b.value >>> (b.width - min a.width b.width)

/-- R102, row by row, by the mask and match columns, with the fields of R92 to R98 and the extensions of R99 and R100; the row 0x4D6
holds SDIV and UDIV (R104). -/
def Obligations.OpcodeTableRowsDecodeTheirFields : Prop :=
  ∀ (w : IWord) (rd rn rm : RegIdx) (sh : BitVec 6) (imm off br cb : Word) (mv : BitVec 16) (slot : BitVec 2),
    rd = w.extractLsb' 0 5 → rn = w.extractLsb' 5 5 → rm = w.extractLsb' 16 5 → sh = w.extractLsb' 10 6 →
    imm = (w.extractLsb' 10 12).signExtend 64 → off = (w.extractLsb' 12 9).signExtend 64 →
    br = (w.extractLsb' 0 26).signExtend 64 → cb = (w.extractLsb' 5 19).signExtend 64 →
    mv = w.extractLsb' 5 16 → slot = w.extractLsb' 21 2 →
    (w &&& 0xFFE00000 = 0x8A000000 → decode w = .ok (.and rd rn rm)) ∧
    (w &&& 0xFFE00000 = 0x8B000000 → decode w = .ok (.add rd rn rm)) ∧
    (w &&& 0xFFE00000 = 0x9B000000 → decode w = .ok (.mul rd rn rm)) ∧
    (w &&& 0xFFE00000 = 0x9B400000 → decode w = .ok (.smulh rd rn rm)) ∧
    (w &&& 0xFFE00000 = 0x9BC00000 → decode w = .ok (.umulh rd rn rm)) ∧
    (w &&& 0xFFE00000 = 0xAA000000 → decode w = .ok (.orr rd rn rm)) ∧
    (w &&& 0xFFE00000 = 0xAB000000 → decode w = .ok (.adds rd rn rm)) ∧
    (w &&& 0xFFE00000 = 0xCA000000 → decode w = .ok (.eor rd rn rm)) ∧
    (w &&& 0xFFE00000 = 0xCB000000 → decode w = .ok (.sub rd rn rm)) ∧
    (w &&& 0xFFE00000 = 0xEA000000 → decode w = .ok (.ands rd rn rm)) ∧
    (w &&& 0xFFE00000 = 0xEB000000 → decode w = .ok (.subs rd rn rm)) ∧
    (w &&& 0xFFE00000 = 0xD3400000 → decode w = .ok (.lsr rd rn sh)) ∧
    (w &&& 0xFFE00000 = 0xD3600000 → decode w = .ok (.lsl rd rn sh)) ∧
    (w &&& 0xFFE00000 = 0xD6000000 → decode w = .ok (.br rn)) ∧
    (w &&& 0xFFE00000 = 0xFFE00000 → decode w = .ok .exit) ∧
    (w &&& 0xFFC00000 = 0x91000000 → decode w = .ok (.addi rd rn imm)) ∧
    (w &&& 0xFFC00000 = 0x92000000 → decode w = .ok (.andi rd rn imm)) ∧
    (w &&& 0xFFC00000 = 0xB1000000 → decode w = .ok (.addis rd rn imm)) ∧
    (w &&& 0xFFC00000 = 0xB2000000 → decode w = .ok (.orri rd rn imm)) ∧
    (w &&& 0xFFC00000 = 0xD1000000 → decode w = .ok (.subi rd rn imm)) ∧
    (w &&& 0xFFC00000 = 0xD2000000 → decode w = .ok (.eori rd rn imm)) ∧
    (w &&& 0xFFC00000 = 0xF1000000 → decode w = .ok (.subis rd rn imm)) ∧
    (w &&& 0xFFC00000 = 0xF2000000 → decode w = .ok (.andis rd rn imm)) ∧
    (w &&& 0xFFE00000 = 0x38000000 → decode w = .ok (.sturb rd rn off)) ∧
    (w &&& 0xFFE00000 = 0x38400000 → decode w = .ok (.ldurb rd rn off)) ∧
    (w &&& 0xFFE00000 = 0x78000000 → decode w = .ok (.sturh rd rn off)) ∧
    (w &&& 0xFFE00000 = 0x78400000 → decode w = .ok (.ldurh rd rn off)) ∧
    (w &&& 0xFFE00000 = 0xB8000000 → decode w = .ok (.sturw rd rn off)) ∧
    (w &&& 0xFFE00000 = 0xB8800000 → decode w = .ok (.ldursw rd rn off)) ∧
    (w &&& 0xFFE00000 = 0xC8000000 → decode w = .ok (.stxr rd rn off)) ∧
    (w &&& 0xFFE00000 = 0xC8400000 → decode w = .ok (.ldxr rd rn off)) ∧
    (w &&& 0xFFE00000 = 0xF8000000 → decode w = .ok (.stur rd rn off)) ∧
    (w &&& 0xFFE00000 = 0xF8400000 → decode w = .ok (.ldur rd rn off)) ∧
    (w &&& 0xFC000000 = 0x14000000 → decode w = .ok (.b br)) ∧
    (w &&& 0xFC000000 = 0x94000000 → decode w = .ok (.bl br)) ∧
    (w &&& 0xFF000000 = 0x54000000 → decode w = .ok (.bCond rd cb)) ∧
    (w &&& 0xFF000000 = 0xB4000000 → decode w = .ok (.cbz rd cb)) ∧
    (w &&& 0xFF000000 = 0xB5000000 → decode w = .ok (.cbnz rd cb)) ∧
    (w &&& 0xFF800000 = 0xD2800000 → decode w = .ok (.movz rd mv slot)) ∧
    (w &&& 0xFF800000 = 0xF2800000 → decode w = .ok (.movk rd mv slot)) ∧
    (w &&& 0xFFE00000 = 0x9AC00000 → sh = 2 → decode w = .ok (.sdiv rd rn rm)) ∧
    (w &&& 0xFFE00000 = 0x9AC00000 → sh = 3 → decode w = .ok (.udiv rd rn rm))

/-- A word is unrecognized exactly if no row of the table matches its leading bits, or it is opcode 0x4D6 with a `shamt` other
than 2 and 3 (30_encoding.md R101, R104, R106). -/
def Obligations.UnrecognizedExactlyWhenNoRowMatches : Prop :=
  ∀ w : IWord, (∃ u, decode w = .error u) ↔
    (∀ r ∈ opcodeTable, w.toNat / 2 ^ (32 - r.width) ≠ r.value) ∨
    (w.toNat / 2 ^ 21 = 0x4D6 ∧ w.extractLsb' 10 6 ≠ 2 ∧ w.extractLsb' 10 6 ≠ 3)

/-- Example words of the spec decode to the instructions that their rules name. -/
def Obligations.ExampleWordsDecode : Prop :=
  decode 0x8B020023 = .ok (.add 3 1 2) ∧
  decode 0x913FFC01 = .ok (.addi 1 0 (-1)) ∧
  decode 0x9B027C23 = .ok (.mul 3 1 2) ∧
  decode 0xD3601022 = .ok (.lsl 2 1 4) ∧
  decode 0xF2FFFFE1 = .ok (.movk 1 0xFFFF 3) ∧
  decode 0x17FFFFFF = .ok (.b (-1)) ∧
  decode 0xB5FFFFA1 = .ok (.cbnz 1 (-3)) ∧
  decode 0x381FF0C5 = .ok (.sturb 5 6 (-1)) ∧
  decode 0xB88040C7 = .ok (.ldursw 7 6 4) ∧
  decode 0xFFE00000 = .ok .exit

/-! ## Arithmetic and logic -/

/-- R142 to R146: the five register-register operations without flags. -/
def Obligations.RegisterOperationsWithoutFlags : Prop :=
  ∀ (rd rn rm : RegIdx) (s : State),
    (HasShape (.add rd rn rm) .R 11 0x458 (some rn) (some rm) none (some rd) ∧
      ∃ t, exec (.add rd rn rm) s = .next t ∧ Computes s t rd (s.reg rn + s.reg rm)) ∧
    (HasShape (.sub rd rn rm) .R 11 0x658 (some rn) (some rm) none (some rd) ∧
      ∃ t, exec (.sub rd rn rm) s = .next t ∧ Computes s t rd (s.reg rn - s.reg rm)) ∧
    (HasShape (.and rd rn rm) .R 11 0x450 (some rn) (some rm) none (some rd) ∧
      ∃ t, exec (.and rd rn rm) s = .next t ∧ Computes s t rd (s.reg rn &&& s.reg rm)) ∧
    (HasShape (.orr rd rn rm) .R 11 0x550 (some rn) (some rm) none (some rd) ∧
      ∃ t, exec (.orr rd rn rm) s = .next t ∧ Computes s t rd (s.reg rn ||| s.reg rm)) ∧
    (HasShape (.eor rd rn rm) .R 11 0x650 (some rn) (some rm) none (some rd) ∧
      ∃ t, exec (.eor rd rn rm) s = .next t ∧ Computes s t rd (s.reg rn ^^^ s.reg rm))

/-- R147 to R151: the five register-immediate operations without flags; `imm` is the sign-extended 12-bit field. -/
def Obligations.ImmediateOperationsWithoutFlags : Prop :=
  ∀ (rd rn : RegIdx) (field : BitVec 12) (imm : Word) (s : State), imm = field.signExtend 64 →
    (HasShape (.addi rd rn imm) .I 10 0x244 (some rn) none none (some rd) ∧
      ∃ t, exec (.addi rd rn imm) s = .next t ∧ Computes s t rd (s.reg rn + imm)) ∧
    (HasShape (.subi rd rn imm) .I 10 0x344 (some rn) none none (some rd) ∧
      ∃ t, exec (.subi rd rn imm) s = .next t ∧ Computes s t rd (s.reg rn - imm)) ∧
    (HasShape (.andi rd rn imm) .I 10 0x248 (some rn) none none (some rd) ∧
      ∃ t, exec (.andi rd rn imm) s = .next t ∧ Computes s t rd (s.reg rn &&& imm)) ∧
    (HasShape (.orri rd rn imm) .I 10 0x2C8 (some rn) none none (some rd) ∧
      ∃ t, exec (.orri rd rn imm) s = .next t ∧ Computes s t rd (s.reg rn ||| imm)) ∧
    (HasShape (.eori rd rn imm) .I 10 0x348 (some rn) none none (some rd) ∧
      ∃ t, exec (.eori rd rn imm) s = .next t ∧ Computes s t rd (s.reg rn ^^^ imm))

/-- R152 to R154: ADDS, SUBS and ANDS write `Rd` and all four flags; the flag functions are those of `FlagUpdateLogic`. -/
def Obligations.RegisterOperationsWithFlags : Prop :=
  ∀ (rd rn rm : RegIdx) (s : State),
    (HasShape (.adds rd rn rm) .R 11 0x558 (some rn) (some rm) none (some rd) ∧
      ∃ t, exec (.adds rd rn rm) s = .next t ∧
        ComputesFlags s t rd (s.reg rn + s.reg rm) (flagsAdd (s.reg rn) (s.reg rm))) ∧
    (HasShape (.subs rd rn rm) .R 11 0x758 (some rn) (some rm) none (some rd) ∧
      ∃ t, exec (.subs rd rn rm) s = .next t ∧
        ComputesFlags s t rd (s.reg rn - s.reg rm) (flagsSub (s.reg rn) (s.reg rm))) ∧
    (HasShape (.ands rd rn rm) .R 11 0x750 (some rn) (some rm) none (some rd) ∧
      ∃ t, exec (.ands rd rn rm) s = .next t ∧
        ComputesFlags s t rd (s.reg rn &&& s.reg rm) (flagsAnd (s.reg rn) (s.reg rm)))

/-- R155 to R157: ADDIS, SUBIS and ANDIS, flags computed with the sign-extended 64-bit immediate. -/
def Obligations.ImmediateOperationsWithFlags : Prop :=
  ∀ (rd rn : RegIdx) (field : BitVec 12) (imm : Word) (s : State), imm = field.signExtend 64 →
    (HasShape (.addis rd rn imm) .I 10 0x2C4 (some rn) none none (some rd) ∧
      ∃ t, exec (.addis rd rn imm) s = .next t ∧
        ComputesFlags s t rd (s.reg rn + imm) (flagsAdd (s.reg rn) imm)) ∧
    (HasShape (.subis rd rn imm) .I 10 0x3C4 (some rn) none none (some rd) ∧
      ∃ t, exec (.subis rd rn imm) s = .next t ∧
        ComputesFlags s t rd (s.reg rn - imm) (flagsSub (s.reg rn) imm)) ∧
    (HasShape (.andis rd rn imm) .I 10 0x3C8 (some rn) none none (some rd) ∧
      ∃ t, exec (.andis rd rn imm) s = .next t ∧
        ComputesFlags s t rd (s.reg rn &&& imm) (flagsAnd (s.reg rn) imm))

/-- R141: the flags in exact integers, and the bit-level forms: carry out of bit 63, the borrow, and the overflow by the signs
of the operands and the result. -/
def Obligations.FlagUpdateLogic : Prop :=
  ∀ a b : Word,
    ((flagsAdd a b).z = true ↔ (a.toNat + b.toNat) % 2 ^ 64 = 0) ∧
    ((flagsAdd a b).n = (a + b).getLsbD 63) ∧
    ((flagsAdd a b).c = true ↔ 2 ^ 64 - 1 < a.toNat + b.toNat) ∧
    ((flagsAdd a b).c = (a.setWidth 65 + b.setWidth 65).getLsbD 64) ∧
    ((flagsAdd a b).v = true ↔ 2 ^ 63 - 1 < a.toInt + b.toInt ∨ a.toInt + b.toInt < -2 ^ 63) ∧
    ((flagsAdd a b).v = (a.msb == b.msb && (a + b).msb != a.msb)) ∧
    ((flagsSub a b).z = true ↔ a = b) ∧
    ((flagsSub a b).n = (a - b).getLsbD 63) ∧
    ((flagsSub a b).c = true ↔ a.toNat < b.toNat) ∧
    ((flagsSub a b).v = true ↔ 2 ^ 63 - 1 < a.toInt - b.toInt ∨ a.toInt - b.toInt < -2 ^ 63) ∧
    ((flagsSub a b).v = (a.msb != b.msb && (a - b).msb != a.msb)) ∧
    ((flagsAnd a b).z = true ↔ ∀ i, i < 64 → (a.getLsbD i && b.getLsbD i) = false) ∧
    ((flagsAnd a b).n = (a.msb && b.msb)) ∧
    (flagsAnd a b).c = false ∧ (flagsAnd a b).v = false

/-- R159: a flag-setting instruction leaves the registers as its twin without S does, with `Z` = (`r` == 0) and `N` =
(`sint(r)` < 0) of the requested value `r`, whether or not the request is dropped. -/
def Obligations.FlagSettersComputeTheirTwinsResult : Prop :=
  ∀ (rd rn rm : RegIdx) (imm : Word) (s : State) (i twin : Instr) (r : Word) (f : Flags),
    ((i, twin, r, f) = (.adds rd rn rm, .add rd rn rm, s.reg rn + s.reg rm, flagsAdd (s.reg rn) (s.reg rm)) ∨
      (i, twin, r, f) = (.subs rd rn rm, .sub rd rn rm, s.reg rn - s.reg rm, flagsSub (s.reg rn) (s.reg rm)) ∨
      (i, twin, r, f) = (.ands rd rn rm, .and rd rn rm, s.reg rn &&& s.reg rm, flagsAnd (s.reg rn) (s.reg rm)) ∨
      (i, twin, r, f) = (.addis rd rn imm, .addi rd rn imm, s.reg rn + imm, flagsAdd (s.reg rn) imm) ∨
      (i, twin, r, f) = (.subis rd rn imm, .subi rd rn imm, s.reg rn - imm, flagsSub (s.reg rn) imm) ∨
      (i, twin, r, f) = (.andis rd rn imm, .andi rd rn imm, s.reg rn &&& imm, flagsAnd (s.reg rn) imm)) →
    ∃ t u, exec i s = .next t ∧ exec twin s = .next u ∧
      SameRegs u t ∧ (rd ≠ zeroReg → t.reg rd = r) ∧
      (t.flags.z = true ↔ r = 0) ∧ (t.flags.n = true ↔ r.toInt < 0) ∧ t.flags.c = f.c ∧ t.flags.v = f.v

/-! ## Multiply, divide, shift, move -/

/-- R181 to R183: the low half and the two high halves of the 128-bit product, as bit slices of 128-bit products. -/
def Obligations.MultiplyHalves : Prop :=
  ∀ (rd rn rm : RegIdx) (s : State),
    (HasShape (.mul rd rn rm) .R 11 0x4D8 (some rn) (some rm) none (some rd) ∧
      ∃ t, exec (.mul rd rn rm) s = .next t ∧
        Computes s t rd (((s.reg rn).setWidth 128 * (s.reg rm).setWidth 128).extractLsb' 0 64)) ∧
    (HasShape (.smulh rd rn rm) .R 11 0x4DA (some rn) (some rm) none (some rd) ∧
      ∃ t, exec (.smulh rd rn rm) s = .next t ∧
        Computes s t rd (((s.reg rn).signExtend 128 * (s.reg rm).signExtend 128).extractLsb' 64 64)) ∧
    (HasShape (.umulh rd rn rm) .R 11 0x4DE (some rn) (some rm) none (some rd) ∧
      ∃ t, exec (.umulh rd rn rm) s = .next t ∧
        Computes s t rd (((s.reg rn).setWidth 128 * (s.reg rm).setWidth 128).extractLsb' 64 64))

/-- R184, R185, R187: a zero divisor raises DivideByZero, whatever `Rd` is, and halts the core; otherwise the signed quotient is
rounded toward zero, with -2^63 / -1 = -2^63, and the unsigned quotient is the floor. -/
def Obligations.DivisionDefined : Prop :=
  ∀ (rd rn rm : RegIdx) (s : State),
    HasShape (.sdiv rd rn rm) .R 11 0x4D6 (some rn) (some rm) none (some rd) ∧
    HasShape (.udiv rd rn rm) .R 11 0x4D6 (some rn) (some rm) none (some rd) ∧
    (encode (.sdiv rd rn rm)).extractLsb' 10 6 = 0b000010 ∧ (encode (.udiv rd rn rm)).extractLsb' 10 6 = 0b000011 ∧
    (s.reg rm = 0 →
      (∃ t, exec (.sdiv rd rn rm) s = .next t ∧ Faults s t .divideByZero 0 ∧ t.halted = true) ∧
      (∃ t, exec (.udiv rd rn rm) s = .next t ∧ Faults s t .divideByZero 0 ∧ t.halted = true)) ∧
    (s.reg rm ≠ 0 →
      (∃ t q, exec (.sdiv rd rn rm) s = .next t ∧ Computes s t rd q ∧
        (if (s.reg rn).toInt = -2 ^ 63 ∧ (s.reg rm).toInt = -1 then q = 0x8000000000000000
          else ∃ rest : Int, (s.reg rn).toInt = q.toInt * (s.reg rm).toInt + rest ∧
            |rest| < |(s.reg rm).toInt| ∧ 0 ≤ rest * (s.reg rn).toInt)) ∧
      (∃ t q, exec (.udiv rd rn rm) s = .next t ∧ Computes s t rd q ∧
        q.toNat * (s.reg rm).toNat ≤ (s.reg rn).toNat ∧
        (s.reg rn).toNat < (q.toNat + 1) * (s.reg rm).toNat))

/-- R188, R189: bit `i` of the result of a shift, zeros entering. -/
def Obligations.LogicalShifts : Prop :=
  ∀ (rd rn : RegIdx) (sh : BitVec 6) (s : State),
    (HasShape (.lsl rd rn sh) .R 11 0x69B (some rn) none none (some rd) ∧
      ∃ t v, exec (.lsl rd rn sh) s = .next t ∧ Computes s t rd v ∧
        ∀ i, i < 64 → v.getLsbD i = (decide (sh.toNat ≤ i) && (s.reg rn).getLsbD (i - sh.toNat))) ∧
    (HasShape (.lsr rd rn sh) .R 11 0x69A (some rn) none none (some rd) ∧
      ∃ t v, exec (.lsr rd rn sh) s = .next t ∧ Computes s t rd v ∧
        ∀ i, i < 64 → v.getLsbD i = (s.reg rn).getLsbD (i + sh.toNat))

/-- R200, R201: the four 16-bit slots of the result of a wide move. MOVZ clears the slots it does not select, MOVK keeps the old
value of `Rd` there. -/
def Obligations.WideMoves : Prop :=
  ∀ (rd : RegIdx) (imm : BitVec 16) (slot : BitVec 2) (s : State),
    (HasShape (.movz rd imm slot) .M 9 0x1A5 none none none (some rd) ∧
      ∃ t v, exec (.movz rd imm slot) s = .next t ∧ Computes s t rd v ∧
        ∀ k : BitVec 2, v.extractLsb' (16 * k.toNat) 16 = if k = slot then imm else 0) ∧
    (HasShape (.movk rd imm slot) .M 9 0x1E5 none none (some rd) (some rd) ∧
      ∃ t v, exec (.movk rd imm slot) s = .next t ∧ Computes s t rd v ∧
        ∀ k : BitVec 2, v.extractLsb' (16 * k.toNat) 16 =
          if k = slot then imm else (s.reg rd).extractLsb' (16 * k.toNat) 16)

/-! ## Branches -/

/-- R213 to R215: B, BL and BR are always taken; BL puts the index of the next instruction into X30. At the branch the PC of the
state is its own index `ipc`. -/
def Obligations.UnconditionalBranches : Prop :=
  ∀ (disp : Word) (rn : RegIdx) (s : State),
    (HasShape (.b disp) .B 6 0x05 none none none none ∧
      ∃ t, exec (.b disp) s = .next t ∧ GoesTo s t (s.pc + 1 + disp)) ∧
    (HasShape (.bl disp) .B 6 0x25 none none none (some 30) ∧
      ∃ t, exec (.bl disp) s = .next t ∧ Links s t (s.pc + 1 + disp)) ∧
    (HasShape (.br rn) .R 11 0x6B0 (some rn) none none none ∧
      ∃ t, exec (.br rn) s = .next t ∧ GoesTo s t (s.reg rn))

/-- R216, R217: CBZ and CBNZ test all 64 bits of `Rt`, register 31 as 0; flags are neither read nor written. -/
def Obligations.CompareAndBranch : Prop :=
  ∀ (rt : RegIdx) (disp : Word) (s : State),
    (HasShape (.cbz rt disp) .C 8 0xB4 none none (some rt) none ∧
      ∃ t, exec (.cbz rt disp) s = .next t ∧
        GoesTo s t (if s.reg rt = 0 then s.pc + 1 + disp else s.pc + 1)) ∧
    (HasShape (.cbnz rt disp) .C 8 0xB5 none none (some rt) none ∧
      ∃ t, exec (.cbnz rt disp) s = .next t ∧
        GoesTo s t (if s.reg rt = 0 then s.pc + 1 else s.pc + 1 + disp))

/-- R218, with the conditions of R109 and R219 written out: a B.cond that is taken clears all four flags; one that is not, or
whose code matches no case, changes nothing but the PC. -/
def Obligations.ConditionalBranch : Prop :=
  ∀ (cond : BitVec 5) (disp : Word) (s : State) (taken : Prop),
    (taken ↔ (cond = 0 ∧ s.flags.z = true) ∨ (cond = 1 ∧ s.flags.z = false) ∨
      (cond = 10 ∧ s.flags.n = s.flags.v) ∨ (cond = 11 ∧ s.flags.n ≠ s.flags.v) ∨
      (cond = 12 ∧ s.flags.z = false ∧ s.flags.n = s.flags.v) ∨
      (cond = 13 ∧ ¬ (s.flags.z = false ∧ s.flags.n = s.flags.v))) →
    HasShape (.bCond cond disp) .C 8 0x54 none none none none ∧
    (taken → ∃ t, exec (.bCond cond disp) s = .next t ∧ GoesToClearing s t (s.pc + 1 + disp)) ∧
    (¬ taken → ∃ t, exec (.bCond cond disp) s = .next t ∧ GoesTo s t (s.pc + 1))

/-- After a subtraction of `a` and `b` the six conditions compare `a` and `b` as signed numbers, for all 64-bit operands, also where
the difference overflows (43_branch.md R219, which the spec marks as derived). -/
def Obligations.ConditionsCompareSignedAfterSubtraction : Prop :=
  ∀ a b : Word,
    (Cond.eq.holds (flagsSub a b) = true ↔ a = b) ∧
    (Cond.ne.holds (flagsSub a b) = true ↔ a ≠ b) ∧
    (Cond.ge.holds (flagsSub a b) = true ↔ b.toInt ≤ a.toInt) ∧
    (Cond.lt.holds (flagsSub a b) = true ↔ a.toInt < b.toInt) ∧
    (Cond.gt.holds (flagsSub a b) = true ↔ b.toInt < a.toInt) ∧
    (Cond.le.holds (flagsSub a b) = true ↔ a.toInt ≤ b.toInt)

/-! ## Loads and stores -/

/-- R231 to R234, R240: a store in range writes the low bytes of `Rt` big-endian at base + displacement, every other byte is
unchanged, no register is written; a store out of range faults. STXR is a plain 8-byte store. -/
def Obligations.StoresWriteBigEndianBytes : Prop :=
  ∀ (rt rn : RegIdx) (field : BitVec 9) (disp : Word) (s : State), disp = field.signExtend 64 → s.dmem.wf →
    (HasShape (.sturb rt rn disp) .D 11 0x1C0 (some rn) none (some rt) none ∧
      StoresOrFaults (.sturb rt rn disp) s (effectiveAddr (s.reg rn) disp) 1 (s.reg rt)) ∧
    (HasShape (.sturh rt rn disp) .D 11 0x3C0 (some rn) none (some rt) none ∧
      StoresOrFaults (.sturh rt rn disp) s (effectiveAddr (s.reg rn) disp) 2 (s.reg rt)) ∧
    (HasShape (.sturw rt rn disp) .D 11 0x5C0 (some rn) none (some rt) none ∧
      StoresOrFaults (.sturw rt rn disp) s (effectiveAddr (s.reg rn) disp) 4 (s.reg rt)) ∧
    (HasShape (.stur rt rn disp) .D 11 0x7C0 (some rn) none (some rt) none ∧
      StoresOrFaults (.stur rt rn disp) s (effectiveAddr (s.reg rn) disp) 8 (s.reg rt)) ∧
    (HasShape (.stxr rt rn disp) .D 11 0x640 (some rn) none (some rt) none ∧
      StoresOrFaults (.stxr rt rn disp) s (effectiveAddr (s.reg rn) disp) 8 (s.reg rt))

/-- R235 to R238, R241: a load in range puts the big-endian number in memory at base + displacement into `Rt`, zero-extended, for
LDURSW sign-extended; a load out of range faults. LDXR is a plain 8-byte load. -/
def Obligations.LoadsReadBigEndianBytes : Prop :=
  ∀ (rt rn : RegIdx) (field : BitVec 9) (disp : Word) (s : State) (a : Nat) (byte : Nat → Byte),
    disp = field.signExtend 64 → a = (effectiveAddr (s.reg rn) disp).toNat → (∀ k, byte k = s.dmem.read (a + k)) →
    (HasShape (.ldurb rt rn disp) .D 11 0x1C2 (some rn) none none (some rt) ∧
      LoadsOrFaults (.ldurb rt rn disp) s (effectiveAddr (s.reg rn) disp) 1 rt ((byte 0).setWidth 64)) ∧
    (HasShape (.ldurh rt rn disp) .D 11 0x3C2 (some rn) none none (some rt) ∧
      LoadsOrFaults (.ldurh rt rn disp) s (effectiveAddr (s.reg rn) disp) 2 rt ((byte 0 ++ byte 1).setWidth 64)) ∧
    (HasShape (.ldursw rt rn disp) .D 11 0x5C4 (some rn) none none (some rt) ∧
      LoadsOrFaults (.ldursw rt rn disp) s (effectiveAddr (s.reg rn) disp) 4 rt
        ((byte 0 ++ byte 1 ++ byte 2 ++ byte 3).signExtend 64)) ∧
    (HasShape (.ldur rt rn disp) .D 11 0x7C2 (some rn) none none (some rt) ∧
      LoadsOrFaults (.ldur rt rn disp) s (effectiveAddr (s.reg rn) disp) 8 rt
        (byte 0 ++ byte 1 ++ byte 2 ++ byte 3 ++ byte 4 ++ byte 5 ++ byte 6 ++ byte 7)) ∧
    (HasShape (.ldxr rt rn disp) .D 11 0x642 (some rn) none none (some rt) ∧
      LoadsOrFaults (.ldxr rt rn disp) s (effectiveAddr (s.reg rn) disp) 8 rt
        (byte 0 ++ byte 1 ++ byte 2 ++ byte 3 ++ byte 4 ++ byte 5 ++ byte 6 ++ byte 7))

/-- A store of `n` bytes followed by a load of `n` bytes at the same address returns the low `8n` bits of the stored value,
zero-extended, for LDURSW sign-extended (44_loadstore.md R242, last sentence). -/
def Obligations.StoreThenLoadReturnsTheLowBits : Prop :=
  ∀ (rt rn rt' rn' : RegIdx) (disp disp' : Word) (s : State) (n : Nat) (store load : Instr) (v : Word),
    s.dmem.wf → effectiveAddr (s.reg rn) disp = effectiveAddr (s.reg rn') disp' →
    (effectiveAddr (s.reg rn) disp).toNat + n ≤ s.params.dmemBytes →
    ((store, load, n, v) = (.sturb rt rn disp, .ldurb rt' rn' disp', 1, ((s.reg rt).setWidth 8).setWidth 64) ∨
      (store, load, n, v) = (.sturh rt rn disp, .ldurh rt' rn' disp', 2, ((s.reg rt).setWidth 16).setWidth 64) ∨
      (store, load, n, v) = (.sturw rt rn disp, .ldursw rt' rn' disp', 4, ((s.reg rt).setWidth 32).signExtend 64) ∨
      (store, load, n, v) = (.stur rt rn disp, .ldur rt' rn' disp', 8, s.reg rt) ∨
      (store, load, n, v) = (.stxr rt rn disp, .ldxr rt' rn' disp', 8, s.reg rt)) →
    ∃ t u, exec store s = .next t ∧ exec load t = .next u ∧ WritesReg t u rt' v

/-- Two canonical memories that read alike are the same list, so equal memories are equal data (the model's own choice of
representation; 20_memory.md R64 gives the array of bytes it stands for). -/
def Obligations.CanonicalMemoriesThatReadAlikeAreEqual : Prop :=
  ∀ m m' : Memory, m.wf → m'.wf → (∀ a, m.read a = m'.read a) → m = m'

/-! ## EXIT, unrecognized words, invalid fetches -/

/-- EXIT sets `program_ended` and changes nothing else; it reads and writes no register (45_system.md R260). -/
def Obligations.ExitEndsTheRun : Prop :=
  ∀ s : State, HasShape .exit .R 11 0x7FF none none none none ∧ ∃ t, exec .exit s = .next t ∧ Ends s t ∧ t.halted = true

/-- An unrecognized word is an instruction of four cycles that changes nothing but the PC; in the pipeline its Execute step has
no effect, it reads no register and has no destination (45_system.md R261). -/
def Obligations.UnrecognizedWordIsANoOperation : Prop :=
  (∀ (s : State) (w : IWord) (u : Unrecognized), s.params.mode = .sequential → s.atBoundary = true → s.halted = false →
    imemRead s.imem s.pc = some w → decode w = .error u → ∃ t, step s = .next t ∧ GoesTo s t (s.pc + 1)) ∧
  (∀ (e : ExecBuf) (s : State), executeRecord .unrecognized e s = some (.done {})) ∧
  Record.readsN .unrecognized = none ∧ Record.readsM .unrecognized = none ∧ Record.readsT .unrecognized = none ∧
  Record.dest .unrecognized = none

/-- A fetch outside 1 to `IMEM_WORDS` faults when it reaches Execute, in its third cycle (45_system.md R263, 20_memory.md R63). -/
def Obligations.InvalidFetchFaultsAtExecute : Prop :=
  ∀ s : State, s.params.mode = .sequential → s.atBoundary = true → s.halted = false →
    (s.pc = 0 ∨ s.imem.length < s.pc.toNat) →
    ∃ t, step s = .next t ∧ Faults s t .fetchOutOfRange 0 ∧ t.halted = true ∧ t.programEnded = false

/-! ## What instructions can do -/

/-- R28: an instruction changes the flags only if its mnemonic has the suffix S or it is a taken B.cond, which leaves them all 0. -/
def Obligations.OnlyFlagSettersAndTakenBranchesChangeFlags : Prop :=
  ∀ (i : Instr) (s : State), ∃ t, exec i s = .next t ∧
    (t.flags = s.flags ∨ setsFlags i ∨
      ∃ cond disp, i = .bCond cond disp ∧ t.flags = ⟨false, false, false, false⟩ ∧ t.pc = s.pc + 1 + disp)

/-- Only B.cond reads the flags, and it does not read `C`: in every other instruction the flags, and in B.cond the flag `C`, make
no difference to registers, memory, PC, `program_ended` or fault (10_state.md R28, whose last clause the spec marks as derived). -/
def Obligations.FlagsAreReadOnlyByConditionalBranch : Prop :=
  ∀ (i : Instr) (s : State) (f : Flags),
    ((∀ cond disp, i ≠ .bCond cond disp) ∨ (f.z = s.flags.z ∧ f.n = s.flags.n ∧ f.v = s.flags.v)) →
    ∃ t u, exec i s = .next t ∧ exec i { s with flags := f } = .next u ∧
      SameRegs t u ∧ u.dmem = t.dmem ∧ u.pc = t.pc ∧ u.programEnded = t.programEnded ∧ u.fault = t.fault

/-- An instruction's Execute effect is of its class: only its `dest` is written, only the ten D format instructions access data
memory and only the five stores write it, only branches set the PC, only EXIT ends the run (47_hazards_forwarding.md R301,
20_memory.md R60, R74, 10_state.md R25, R41). -/
def Obligations.ExecuteEffectsMatchTheInstructionsClass : Prop :=
  ∀ (i : Instr) (e : ExecBuf) (s : State) (eff : Effect), executeInstr i e s = some (.done eff) →
    (eff.wb.map (·.reg) = destOf i) ∧
    (eff.access.isSome = true ↔ i.format = .D) ∧
    ((∃ a, eff.access = some a ∧ a.kind = .store) ↔ (i.format = .D ∧ destOf i = none)) ∧
    (eff.branch.isTaken = true →
      (∃ d, i = .b d) ∨ (∃ d, i = .bl d) ∨ (∃ r, i = .br r) ∨ (∃ r d, i = .cbz r d) ∨ (∃ r d, i = .cbnz r d) ∨
      ∃ c d, i = .bCond c d) ∧
    (eff.ended = true ↔ i = .exit)

/-- An instruction depends on no register but those it reads by R301: two states that agree on these, and on everything else but
registers, agree after it on its destination (unless it faults and writes none), memory, flags, PC, `program_ended` and fault. -/
def Obligations.OnlyTheReadRegistersMatter : Prop :=
  ∀ (i : Instr) (s : State) (regs : Vector Word 31), s.fault = none →
    (∀ r, readsN i = some r ∨ readsM i = some r ∨ readsT i = some r → s.reg r = ({ s with regs := regs } : State).reg r) →
    ∃ t u, exec i s = .next t ∧ exec i { s with regs := regs } = .next u ∧
      (t.fault = none → ∀ d, destOf i = some d → t.reg d = u.reg d) ∧
      u.dmem = t.dmem ∧ u.flags = t.flags ∧ u.pc = t.pc ∧ u.programEnded = t.programEnded ∧ u.fault = t.fault

/-! ## State operations and reset -/

/-- R22: register 31 reads 0 and discards writes; a write to any other register changes that register alone. -/
def Obligations.ZeroRegisterReadsZeroAndDiscardsWrites : Prop :=
  ∀ (s : State) (v : Word),
    s.reg 31 = 0 ∧ s.setReg 31 v = s ∧
    ∀ r q : RegIdx, r ≠ 31 → (s.setReg r v).reg q = if q = r then v else s.reg q

/-- R45: the reset values, for every parameter setting and program, data memory all zero or the host's preload; and asserting reset
brings any state back to them, IMem and MODE surviving. -/
def Obligations.ResetValues : Prop :=
  ∀ (params : Params) (imem : List IWord) (preload : Memory) (s : State), s = State.resetWith params imem preload →
    (∀ r, s.reg r = 0) ∧ s.pc = 1 ∧ s.flags = ⟨false, false, false, false⟩ ∧ s.dmem = preload ∧
    (preload = [] → ∀ a, s.dmem.read a = 0) ∧ s.imem = imem ∧ s.fetchBuf = none ∧ s.decodeBuf = none ∧
    s.executeBuf = none ∧ s.writebackBuf = none ∧ s.hzN = false ∧ s.hzM = false ∧ s.hzT = false ∧
    s.branchTaken = false ∧ s.programEnded = false ∧ s.cycleCount = 0 ∧ s.fault = none ∧ s.params = params ∧
    ∀ t : State, t.params = params → t.imem = imem → t.assertReset preload = s

/-! ## The step in sequential mode -/

/-- A step of sequential mode at an instruction boundary runs the decoded instruction at the PC (46_pipeline.md R274). -/
def Obligations.SequentialStepRunsTheDecodedInstruction : Prop :=
  ∀ (s : State) (w : IWord) (i : Instr), s.params.mode = .sequential → s.atBoundary = true → s.halted = false →
    imemRead s.imem s.pc = some w → decode w = .ok i → step s = exec i s

/-- The instruction that `withFetchWord` loads after reset is the first that runs (the model's convention, log entry 3). -/
def Obligations.LoadedWordRunsFirst : Prop :=
  ∀ (n : Nat) (i : Instr), decodeTableWord 32 n = some i →
    step (State.reset.withFetchWord 32 n) = exec i (State.reset.withFetchWord 32 n)

/-- One whole instruction and its stages one cycle at a time are the same machine: four single-stage cycles at an instruction
boundary end where the whole instruction ends; after a fault in the third the fourth does nothing (46_pipeline.md R272). -/
def Obligations.FourStageCyclesAreOneInstruction : Prop :=
  ∀ s : State, s.atBoundary = true → s.halted = false →
    ∃ t, s.seqInstruction = .next t ∧ s.seqCycles 4 = .next t ∧
      (t.fault = none → t.cycleCount = s.cycleCount + 4) ∧
      (t.fault ≠ none → s.seqCycles 3 = .next t ∧ t.cycleCount = s.cycleCount + 3)

/-- The meaning of an instruction is the rule that the Execute stage of both modes applies, run on operands from the register file
(46_pipeline.md R271, R274, R280). -/
def Obligations.MeaningIsTheExecuteStagesRule : Prop :=
  ∀ (i : Instr) (s : State), ∃ x, executeRecord (.instr i) (s.loadOperands (.instr i) s.pc) s = some x ∧
    exec i s = .next (s.runRecord (.instr i) x)

/-! ## The step in pipelined mode -/

/-- R280, R284, R285 in one running cycle whose E buffer holds an instruction that completes: its effects happen at once, its write
request goes to W, the request in W is committed, the cycle is counted. -/
def Obligations.PipelinedCycleExecutesTheInstructionInE : Prop :=
  ∀ (s : State) (e : ExecBuf) (eff : Effect), s.params.mode = .pipelined → s.halted = false → s.executeBuf = some e →
    executeRecord e.record e s = some (.done eff) →
    ∃ t, step s = .next t ∧
      t.flags = eff.flags.getD s.flags ∧ t.dmem = s.dmem.after eff.access ∧
      t.pc = eff.branch.pcAfter (if s.anyHazard = true then s.pc else s.pc + 1) ∧
      t.programEnded = eff.ended ∧ t.fault = none ∧
      t.writebackBuf = some { e with wb := eff.wb } ∧
      (∀ r, t.reg r = s.commitWriteback.reg r) ∧ t.cycleCount = s.cycleCount + 1

/-- R282: a fault in Execute. The faulting instruction changes nothing, the older instruction's write is committed, the cycle is
counted, the hazard step does not run, and the core halts. -/
def Obligations.PipelinedFaultIsPrecise : Prop :=
  ∀ (s : State) (e : ExecBuf) (cause : Fault) (info : Word), s.params.mode = .pipelined → s.halted = false →
    s.executeBuf = some e → executeRecord e.record e s = some (.raises cause info) →
    ∃ t, step s = .next t ∧
      t.fault = some { cause := cause, ipc := e.ipc, info := info } ∧ t.halted = true ∧
      (∀ r, t.reg r = s.commitWriteback.reg r) ∧ t.flags = s.flags ∧ t.dmem = s.dmem ∧
      t.programEnded = false ∧ t.branchTaken = s.branchTaken ∧
      t.pc = (if s.anyHazard = true then s.pc else s.pc + 1) ∧
      t.executeBuf = some e ∧ t.writebackBuf = s.writebackBuf ∧ t.cycleCount = s.cycleCount + 1 ∧
      t.fetchBuf = s.frontHalf.fetchBuf ∧ t.decodeBuf = s.frontHalf.decodeBuf ∧ step t = .next t

/-- R284: in a running pipelined cycle the only register that can change is the one the W buffer's request names. -/
def Obligations.RegistersChangeOnlyByWriteback : Prop :=
  ∀ s t : State, s.params.mode = .pipelined → s.halted = false → step s = .next t →
    (s.writebackBuf = none → SameRegs s t) ∧
    ∀ w, s.writebackBuf = some w →
      (w.wb = none → SameRegs s t) ∧ ∀ q, w.wb = some q → WritesReg s t q.reg q.value

/-- A bubble in E executes nothing: flags, data memory, `program_ended` and fault are as before (45_system.md R262). -/
def Obligations.BubbleExecutesNothing : Prop :=
  ∀ s : State, s.params.mode = .pipelined → s.halted = false → s.executeBuf = none →
    ∃ t, step s = .next t ∧ t.flags = s.flags ∧ t.dmem = s.dmem ∧ t.programEnded = s.programEnded ∧ t.fault = none ∧
      t.pc = (if s.anyHazard = true then s.pc else s.pc + 1) ∧ t.writebackBuf = none

/-- R303: the dependency predicates under `full`; all false if D or E is a bubble. -/
def Obligations.DependenciesUnderFullScope : Prop :=
  ∀ s : State, s.params.hazardScope = .full →
    ((s.decodeBuf = none ∨ s.executeBuf = none) → s.raw = ⟨false, false, false⟩) ∧
    ∀ d e, s.decodeBuf = some d → s.executeBuf = some e →
      (s.raw.n = true ↔ ∃ r, Record.dest e.record = some r ∧ r ≠ 31 ∧ Record.readsN d.decoded = some r) ∧
      (s.raw.m = true ↔ ∃ r, Record.dest e.record = some r ∧ r ≠ 31 ∧ Record.readsM d.decoded = some r) ∧
      (s.raw.t = true ↔ ∃ r, Record.dest e.record = some r ∧ r ≠ 31 ∧ Record.readsT d.decoded = some r)

/-- R304: the dependency predicates under `literal`. -/
def Obligations.DependenciesUnderLiteralScope : Prop :=
  ∀ s : State, s.params.hazardScope = .literal →
    ((s.decodeBuf = none ∨ s.executeBuf = none) → s.raw = ⟨false, false, false⟩) ∧
    ∀ d e, s.decodeBuf = some d → s.executeBuf = some e →
      (s.raw.n = true ↔ ∃ r, Record.dest e.record = some r ∧ r ≠ 31 ∧ Record.readsN d.decoded = some r ∧
        Record.format d.decoded = Record.format e.record) ∧
      (s.raw.m = true ↔ ∃ r, Record.dest e.record = some r ∧ r ≠ 31 ∧ Record.readsM d.decoded = some r ∧
        Record.format d.decoded = Record.format e.record) ∧
      (s.raw.t = true ↔ ∃ r, Record.dest e.record = some r ∧ r ≠ 31 ∧ Record.readsT d.decoded = some r ∧
        Record.format d.decoded = some .C ∧ Record.format e.record = some .R)

/-- R305, R306, R308 to R310: the hazard step takes the first outcome of the priority order that applies, and moves the buffers as that
outcome says. A pending branch with a dependency on path t alone is flushed under `belowFlush`, R305's own order; what `aboveFlush`, the
order of R318's prose, does with it is stated in `TakenBranchFlushesTwoInstructions` (log entry 20). -/
def Obligations.HazardStepFollowsThePriority : Prop :=
  ∀ s : State,
    (s.raw.n = true ∨ s.raw.m = true → s.hazardStep =
      { s with writebackBuf := s.executeBuf, executeBuf := none, hzN := s.raw.n, hzM := s.raw.m, hzT := s.raw.t }) ∧
    (s.raw.n = false → s.raw.m = false → s.branchTaken = true →
        (s.raw.t = false ∨ s.params.pathTPriority = .belowFlush) → s.hazardStep =
      { s with writebackBuf := s.executeBuf, executeBuf := none, decodeBuf := none, branchTaken := false }) ∧
    (s.raw.n = false → s.raw.m = false → s.branchTaken = false → s.raw.t = true → s.hazardStep =
      { s with writebackBuf := s.executeBuf, executeBuf := none, hzN := false, hzM := false, hzT := true }) ∧
    (s.raw.n = false → s.raw.m = false → s.branchTaken = false → s.raw.t = false → s.hazardStep =
      { s with
        writebackBuf := s.executeBuf
        executeBuf := s.decodeBuf.map s.resolve
        decodeBuf := s.fetchBuf.map fun f =>
          { ipc := f.ipc, word := f.word, record := none, fwdN := none, fwdM := none, fwdT := none } })

/-- R311, R312: the Forwarding step latches the W buffer's request into the paths of the held instruction whose hazard flag is set and
that read its register, unless W holds a format D instruction or its register is 31, clears the flags and changes nothing else; resolution
takes the latched value, else the register file's, on the paths that the record reads. -/
def Obligations.ForwardingAndResolution : Prop :=
  ∀ (s : State) (d : DecodeBuf), s.decodeBuf = some d →
    (s.anyHazard = false → s.forwardStep = s) ∧
    (s.anyHazard = true → s.forwardStep =
      { s with decodeBuf := s.forwardStep.decodeBuf, hzN := false, hzM := false, hzT := false }) ∧
    (s.anyHazard = true →
      (s.writebackBuf = none ∨
        ∃ w, s.writebackBuf = some w ∧
          (w.wb = none ∨ (∃ q, w.wb = some q ∧ q.reg = 31) ∨ Record.format w.record = some .D)) →
      s.forwardStep.decodeBuf = some d) ∧
    (s.anyHazard = true → ∀ w q, s.writebackBuf = some w → w.wb = some q → q.reg ≠ 31 →
      Record.format w.record ≠ some .D →
      s.forwardStep.decodeBuf = some
        { d with
          fwdN := if s.hzN = true ∧ Record.readsN d.decoded = some q.reg then some q.value else d.fwdN
          fwdM := if s.hzM = true ∧ Record.readsM d.decoded = some q.reg then some q.value else d.fwdM
          fwdT := if s.hzT = true ∧ Record.readsT d.decoded = some q.reg then some q.value else d.fwdT }) ∧
    s.resolve d =
      { record := d.decoded, ipc := d.ipc, wb := none
        vn := (Record.readsN d.decoded).map fun r => d.fwdN.getD (s.reg r)
        vm := (Record.readsM d.decoded).map fun r => d.fwdM.getD (s.reg r)
        vt := (Record.readsT d.decoded).map fun r => d.fwdT.getD (s.reg r) }

/-- A stall lasts one cycle: after it E holds a bubble, and the next cycle moves the held instruction to E, or discards it if a flush
is pending, and sets no hazard flag (47_hazards_forwarding.md R313, which the spec marks as derived). -/
def Obligations.StallLastsOneCycle : Prop :=
  ∀ (s : State) (d : DecodeBuf), s.params.mode = .pipelined → s.halted = false → s.anyHazard = true →
    s.executeBuf = none → s.decodeBuf = some d →
    ∃ t, step s = .next t ∧ t.anyHazard = false ∧ t.pc = s.pc ∧
      (s.branchTaken = true → t.executeBuf = none ∧ t.decodeBuf = none ∧ t.branchTaken = false) ∧
      (s.branchTaken = false → ∃ e, t.executeBuf = some e ∧ e.ipc = d.ipc ∧ e.record = decodeFetched d.word)

/-- A taken branch costs two cycles, three if the instruction behind it waits for its result (43_branch.md R220, 47_hazards_forwarding.md
R308, R318, 70_reset_and_hazards.md R365; R220, R318 and R365 are marked as derived by the spec). If the instruction in D depends on the
branch on path n or m, or on path t under `aboveFlush`, the branch's own cycle holds it and leaves the flush pending, and the next cycle
flushes; otherwise the branch's own cycle flushes. In every one of these cycles E is left a bubble, so no wrong-path instruction
executes, and the cycle after the flush fetches the target. That path t delays the flush under `aboveFlush` and not under `belowFlush` is
the model's choice of covering both readings of the spec, log entry 20. -/
def Obligations.TakenBranchFlushesTwoInstructions : Prop :=
  ∀ (s : State) (e : ExecBuf) (eff : Effect) (target : Word), s.params.mode = .pipelined → s.halted = false →
    s.executeBuf = some e → executeRecord e.record e s = some (.done eff) → eff.branch = .taken target →
    ∃ t, step s = .next t ∧ t.executeBuf = none ∧ t.pc = target ∧
      (if s.frontHalf.raw.n = true ∨ s.frontHalf.raw.m = true ∨
          (s.frontHalf.raw.t = true ∧ s.params.pathTPriority = .aboveFlush) then
        t.decodeBuf = s.frontHalf.decodeBuf ∧ t.branchTaken = true ∧
        ∃ u, step t = .next u ∧ u.executeBuf = none ∧ u.pc = target ∧ FlushedTo target u
      else FlushedTo target t)

/-- The PC at the Execute step of an instruction is its own index plus 3, in a run of pipelined mode (46_pipeline.md R287 d, which the
spec marks as derived). -/
def Obligations.PcAtExecuteIsThreeAhead : Prop :=
  ∀ (s : State) (e : ExecBuf), PipeInv s → s.executeBuf = some e → s.frontHalf.pc = e.ipc + 3

/-- R305: the outcome of the hazard step is reported, once in every running pipelined cycle without a fault, never in one with a fault;
the trace event is the model's (log entry 9). -/
def Obligations.OneHazardEventPerCycle : Prop :=
  ∀ s t : State, s.params.mode = .pipelined → s.halted = false → step s = .next t →
    (trace s).countP (fun ev => match ev with | .hazard _ => true | _ => false) = if t.fault.isSome then 0 else 1

/-! ## Both modes -/

/-- R288: after EXIT or a fault the core takes no further step; in sequential mode EXIT's own last stage still runs first. -/
def Obligations.HaltedCoreTakesNoStep : Prop :=
  ∀ s : State, (s.fault ≠ none ∨ (s.programEnded = true ∧ (s.params.mode = .pipelined ∨ s.atBoundary = true))) →
    step s = .next s

/-- `cycle_count` grows by one per pipelined cycle (46_pipeline.md R285), by four per sequential instruction and three if it faults (R272,
60_exceptions.md R341), and not at all in a halted core that is pipelined or at an instruction boundary (R288, R341). A sequential core
halted by a fault keeps the faulting instruction in E (log entry 15), so it is at no boundary; `HaltedCoreTakesNoStep` covers it. -/
def Obligations.CycleCountIncrements : Prop :=
  ∀ s t : State, step s = .next t →
    (s.halted = true → (s.params.mode = .pipelined ∨ s.atBoundary = true) → t.cycleCount = s.cycleCount) ∧
    (s.halted = false → s.params.mode = .pipelined → t.cycleCount = s.cycleCount + 1) ∧
    (s.halted = false → s.params.mode = .sequential → s.atBoundary = true →
      t.cycleCount = s.cycleCount + (if t.fault.isSome then 3 else 4))

/-- R275: a sequential run from reset whose `k + 1`-th instruction is EXIT ends with `4 (k + 1)` cycles, and one whose `k + 1`-th
instruction faults ends with `4 k + 3`. -/
def Obligations.SequentialRunCycleCount : Prop :=
  ∀ (params : Params) (imem : List IWord) (dmem : Memory) (k : Nat) (t u : State), params.mode = .sequential →
    core.run k (State.resetWith params imem dmem) = .next t → t.halted = false → step t = .next u →
    (u.programEnded = true → u.cycleCount = 4 * (k + 1)) ∧ (u.fault ≠ none → u.cycleCount = 4 * k + 3)

/-- Nothing the core does changes the loaded program or the parameters of the run (20_memory.md R62, which the spec marks as derived,
10_state.md R39). -/
def Obligations.StepKeepsProgramAndParameters : Prop :=
  ∀ s t : State, step s = .next t → t.imem = s.imem ∧ t.params = s.params

/-- Every step keeps the invariant: data memory in canonical form and inside `DMEM_BYTES`, operand values present exactly where the record
reads them, at most one kind of end, the hazard unit idle in sequential mode (10_state.md R31, R38, R44, 46_pipeline.md R272, R273). -/
def Obligations.StepKeepsTheStateInvariant : Prop :=
  ∀ s t : State, Inv s → step s = .next t → Inv t

/-- The invariant holds after reset, whatever the mode, program and preload inside data memory. -/
def Obligations.StateInvariantHoldsAtReset : Prop :=
  ∀ (params : Params) (imem : List IWord) (preload : Memory), params.wf → preload.wf →
    (∀ c ∈ preload, c.1 < params.dmemBytes) → Inv (State.resetWith params imem preload) ∧ Inv State.reset

/-- Every step is determined and answers a next state: under the invariant the core never refuses and never stops outside its own
halt (46_pipeline.md R290, 60_exceptions.md R345). -/
def Obligations.EveryStepAnswersANextState : Prop :=
  ∀ s : State, Inv s → ∃ t, step s = .next t

/-- The pipelined core's invariant holds after reset (10_state.md R45, 70_reset_and_hazards.md R363). -/
def Obligations.PipelineInvariantHoldsAtReset : Prop :=
  ∀ (params : Params) (imem : List IWord) (preload : Memory), PipeInv (State.resetWith params imem preload)

/-- One pipelined cycle under `full` is at most one instruction of the reference semantics: with a bubble in E the state the core stands
for does not change; with an instruction in E it changes as one step of sequential mode does. A run that has not ended keeps the
pipeline's invariant (46_pipeline.md R281, R291, 47_hazards_forwarding.md R315, which the spec marks as derived). -/
def Obligations.PipelinedCycleSimulatesSequentialStep : Prop :=
  ∀ s t : State, PipeInv s → s.params.mode = .pipelined → s.params.hazardScope = .full → s.halted = false →
    step s = .next t →
    (t.halted = false → PipeInv t) ∧
    (s.executeBuf = none → Agree t.drained s.drained ∧ t.nextIndex = s.nextIndex) ∧
    (s.executeBuf ≠ none → ∃ u, step s.drained = .next u ∧ Agree t.drained u ∧
      (t.halted = false → t.nextIndex = u.pc))

/-- Agreement of the modes (46_pipeline.md R291, which the spec marks as derived): with `HAZARD_SCOPE` = `full`, for every program, every
initial data memory, every `DMEM_BYTES` and both values of `pathTPriority`, the pipelined run ends if and only if the sequential run does, and then registers, data
memory, flags, `program_ended` and `fault` are equal in the two. -/
def Obligations.PipelinedAndSequentialRunsAgree : Prop :=
  ∀ (imem : List IWord) (dmem : Memory) (dmemBytes : Nat) (order : PathTPriority) (sq pl : State),
    sq = State.resetWith
      { mode := .sequential, hazardScope := .full, pathTPriority := order, dmemBytes := dmemBytes } imem dmem →
    pl = State.resetWith
      { mode := .pipelined, hazardScope := .full, pathTPriority := order, dmemBytes := dmemBytes } imem dmem →
    ((∃ (k : Nat) (t : State), core.run k sq = .next t ∧ t.halted = true) ↔
      (∃ (k : Nat) (t : State), core.run k pl = .next t ∧ t.halted = true)) ∧
    ∀ (j k : Nat) (t u : State), core.run j sq = .next t → t.halted = true → core.run k pl = .next u → u.halted = true →
      Agree u t
end

