-- ==== Sys2Proof/Laws/Memory.lean ====
section
/-! SUPPORT. Data memory: a read after a write, and the canonical form that every operation keeps. -/

namespace Sys2Proof.Machine

/-- A list that holds nothing at an address below all of its own reads the unlisted value there. -/
theorem Memory.read_of_lt (m : Memory) (a : Nat) (h : ∀ c ∈ m, a < c.1) : Memory.read m a = Memory.unlisted := by
  induction m with
  | nil => rfl
  | cons c rest ih =>
    obtain ⟨b, u⟩ := c
    have hb : a < b := h (b, u) (by simp)
    simp only [Memory.read, if_neg (Nat.ne_of_gt hb)]
    exact ih fun c hc => h c (by simp [hc])

/-- Every entry after a write was there before or is the one written. -/
theorem Memory.mem_write (m : Memory) (a : Nat) (v : Byte) (c : Host.Cell) (hc : c ∈ Memory.write m a v) :
    c ∈ m ∨ (c = (a, v) ∧ v ≠ Memory.unlisted) := by
  induction m with
  | nil =>
    simp only [Memory.write] at hc
    split at hc
    · simp at hc
    · right; exact ⟨by simpa using hc, ‹_›⟩
  | cons x rest ih =>
    obtain ⟨b, u⟩ := x
    simp only [Memory.write] at hc
    split at hc
    · split at hc
      · exact .inl hc
      · rcases List.mem_cons.mp hc with h | h
        · exact .inr ⟨h, ‹_›⟩
        · exact .inl h
    · split at hc
      · split at hc
        · exact .inl (List.mem_cons_of_mem _ hc)
        · rcases List.mem_cons.mp hc with h | h
          · exact .inr ⟨h, ‹_›⟩
          · exact .inl (List.mem_cons_of_mem _ h)
      · rcases List.mem_cons.mp hc with h | h
        · exact .inl (by simp [h])
        · exact (ih h).imp (List.mem_cons_of_mem _) id

/-- A write keeps the canonical form. -/
theorem Memory.write_wf (m : Memory) (a : Nat) (v : Byte) (h : Memory.wf m) : Memory.wf (Memory.write m a v) := by
  refine ⟨?_, fun c hc => ?_⟩
  · obtain ⟨hs, -⟩ := h
    induction m with
    | nil => simp only [Memory.write]; split <;> simp
    | cons x rest ih =>
      obtain ⟨b, u⟩ := x
      obtain ⟨hb, hrest⟩ := List.pairwise_cons.mp hs
      simp only [Memory.write]
      split
      · split
        · exact hs
        · refine List.pairwise_cons.mpr ⟨fun c hc => ?_, hs⟩
          rcases List.mem_cons.mp hc with h | h
          · subst h; assumption
          · exact Nat.lt_trans ‹_› (hb c h)
      · split
        · split
          · exact hrest
          · exact List.pairwise_cons.mpr ⟨fun c hc => by simp [*], hrest⟩
        · refine List.pairwise_cons.mpr ⟨fun c hc => ?_, ih hrest⟩
          rcases Memory.mem_write rest a v c hc with h | h
          · exact hb c h
          · have : c.1 = a := by rw [h.1]
            simp only
            omega
  · rcases Memory.mem_write m a v c hc with h' | h'
    · exact h.2 c h'
    · rw [h'.1]; exact h'.2

/-- A read after a write: the written address reads the value, every other address reads as before. -/
theorem Memory.read_write (m : Memory) (h : Memory.wf m) (a b : Nat) (v : Byte) :
    Memory.read (Memory.write m a v) b = if b = a then v else Memory.read m b := by
  obtain ⟨hs, -⟩ := h
  induction m with
  | nil =>
    simp only [Memory.write, Memory.read]
    split <;> rename_i hv
    · simp [Memory.read, hv]
    · simp [Memory.read, eq_comm]
  | cons x rest ih =>
    obtain ⟨c, u⟩ := x
    obtain ⟨hc, hrest⟩ := List.pairwise_cons.mp hs
    have low : a ≤ c → Memory.read rest a = Memory.unlisted := fun hle =>
      Memory.read_of_lt rest a fun d hd => Nat.lt_of_le_of_lt hle (hc d hd)
    simp only [Memory.write]
    split
    · rename_i hlt
      by_cases hb : b = a
      · subst hb
        have hne : c ≠ b := by omega
        split <;> rename_i hv
        · simp [Memory.read, hne, low (by omega), hv]
        · simp [Memory.read]
      · split
        · simp
        · simp [Memory.read, Ne.symm hb]
    · split
      · rename_i hac
        subst hac
        by_cases hb : b = a
        · subst hb
          split <;> rename_i hv
          · simp [low (Nat.le_refl _), hv]
          · simp [Memory.read]
        · split <;> simp [Memory.read, Ne.symm hb]
      · rename_i h1 h2
        by_cases hb : c = b
        · subst hb
          have : c ≠ a := fun h => h2 h.symm
          simp [Memory.read, this]
        · simp [Memory.read, hb, ih hrest]

/-- Storing bytes keeps the canonical form. -/
theorem Memory.writeBytes_wf (m : Memory) (a n : Nat) (v : Word) (k : Nat) (h : Memory.wf m) :
    Memory.wf (m.writeBytes a n v k) := by
  induction k with
  | zero => exact h
  | succ j ih => exact Memory.write_wf _ _ _ ih

theorem Memory.writeBE_wf (m : Memory) (a n : Nat) (v : Word) (h : Memory.wf m) : Memory.wf (m.writeBE a n v) :=
  Memory.writeBytes_wf m a n v n h

/-- What a byte reads after the first `k` bytes of a store. -/
theorem Memory.read_writeBytes (m : Memory) (a n : Nat) (v : Word) (k b : Nat) (h : Memory.wf m) :
    (m.writeBytes a n v k).read b = if a ≤ b ∧ b < a + k then storedByte n (b - a) v else m.read b := by
  induction k with
  | zero =>
    have : ¬ (a ≤ b ∧ b < a + 0) := by omega
    simp only [Memory.writeBytes, if_neg this]
  | succ j ih =>
    rw [Memory.writeBytes, Memory.read_write _ (Memory.writeBytes_wf m a n v j h), ih]
    by_cases hb : b = a + j
    · have h1 : a ≤ b ∧ b < a + (j + 1) := by omega
      have h2 : b - a = j := by omega
      rw [if_pos hb, if_pos h1, h2]
    · rw [if_neg hb]
      by_cases h1 : a ≤ b ∧ b < a + j
      · rw [if_pos h1, if_pos (by omega)]
      · rw [if_neg h1, if_neg (by omega)]

/-- What a byte reads after a store of `n` bytes (20_memory.md R65). -/
theorem Memory.read_writeBE (m : Memory) (a n : Nat) (v : Word) (b : Nat) (h : Memory.wf m) :
    (m.writeBE a n v).read b = if a ≤ b ∧ b < a + n then storedByte n (b - a) v else m.read b :=
  Memory.read_writeBytes m a n v n b h

/-- Every entry after a store was there before or lies in the stored range. -/
theorem Memory.mem_writeBytes (m : Memory) (a n : Nat) (v : Word) (k : Nat) (c : Host.Cell)
    (hc : c ∈ m.writeBytes a n v k) : c ∈ m ∨ (a ≤ c.1 ∧ c.1 < a + k) := by
  induction k with
  | zero => exact .inl hc
  | succ j ih =>
    rcases Memory.mem_write _ _ _ c hc with h | h
    · exact (ih h).imp id fun h => ⟨h.1, by omega⟩
    · right; rw [h.1]; exact ⟨by simp, by simp⟩

/-- An access keeps the canonical form. -/
theorem Memory.after_wf (m : Memory) (acc : Option Access) (h : Memory.wf m) : Memory.wf (m.after acc) := by
  unfold Memory.after
  split
  · exact Memory.writeBE_wf _ _ _ _ h
  · exact h
  · exact h

end Sys2Proof.Machine
end

