-- ==== Sys2Proof/Laws/Opcodes.lean ====
section
/-! SUPPORT. The opcode table row by row (30_encoding.md R102), and the opcode field of an encoded word. -/

namespace Sys2Proof

/-- The row of a table entry is its own. -/
theorem Op.row_op (op : Op) : op.row.op = op := by cases op <;> decide

/-- A row's key finds that row: no two rows share a (width, value) pair. -/
theorem lookup_row (op : Op) : lookupOpcode op.row.width op.row.value = some op.row := by
  cases op <;> decide

/-- Shifting the low field and `j` bits more out of a word leaves the high part shifted by `j`. -/
theorem toNat_append_shiftRight {n m : Nat} (x : BitVec n) (y : BitVec m) (j : Nat) :
    (x ++ y).toNat >>> (m + j) = x.toNat >>> j := by
  rw [BitVec.toNat_append, Nat.shiftRight_add, Nat.shiftRight_or_distrib, Nat.shiftLeft_shiftRight,
    Nat.shiftRight_eq_div_pow y.toNat, Nat.div_eq_of_lt y.isLt, Nat.or_zero]

/-- The top `k` bits of a format R word come from its opcode. -/
theorem candidate_encodeR (op : Op) (rm : RegIdx) (sh : BitVec 6) (rn rd : RegIdx) (k : Nat) (hk : k ≤ 11) :
    candidate k (encodeR op rm sh rn rd) = (BitVec.ofNat 11 op.row.value).toNat >>> (11 - k) := by
  simp only [candidate, encodeR]
  rw [show 32 - k = 5 + (5 + (6 + (5 + (11 - k)))) by omega]
  simp only [toNat_append_shiftRight]

/-- The top `k` bits of a format I word come from its opcode. -/
theorem candidate_encodeI (op : Op) (imm : Word) (rn rd : RegIdx) (k : Nat) (hk : k ≤ 10) :
    candidate k (encodeI op imm rn rd) = (BitVec.ofNat 10 op.row.value).toNat >>> (10 - k) := by
  simp only [candidate, encodeI]
  rw [show 32 - k = 5 + (5 + (12 + (10 - k))) by omega]
  simp only [toNat_append_shiftRight]

/-- The top `k` bits of a format D word come from its opcode. -/
theorem candidate_encodeD (op : Op) (disp : Word) (rn rt : RegIdx) (k : Nat) (hk : k ≤ 11) :
    candidate k (encodeD op disp rn rt) = (BitVec.ofNat 11 op.row.value).toNat >>> (11 - k) := by
  simp only [candidate, encodeD]
  rw [show 32 - k = 5 + (5 + (2 + (9 + (11 - k)))) by omega]
  simp only [toNat_append_shiftRight]

/-- The top `k` bits of a format B word come from its opcode. -/
theorem candidate_encodeB (op : Op) (disp : Word) (k : Nat) (hk : k ≤ 6) :
    candidate k (encodeB op disp) = (BitVec.ofNat 6 op.row.value).toNat >>> (6 - k) := by
  simp only [candidate, encodeB]
  rw [show 32 - k = 26 + (6 - k) by omega]
  simp only [toNat_append_shiftRight]

/-- The top `k` bits of a format C word come from its opcode. -/
theorem candidate_encodeC (op : Op) (disp : Word) (rt : BitVec 5) (k : Nat) (hk : k ≤ 8) :
    candidate k (encodeC op disp rt) = (BitVec.ofNat 8 op.row.value).toNat >>> (8 - k) := by
  simp only [candidate, encodeC]
  rw [show 32 - k = 5 + (19 + (8 - k)) by omega]
  simp only [toNat_append_shiftRight]

/-- The top `k` bits of a format M word come from its opcode. -/
theorem candidate_encodeM (op : Op) (slot : BitVec 2) (imm : BitVec 16) (rd : RegIdx) (k : Nat) (hk : k ≤ 9) :
    candidate k (encodeM op slot imm rd) = (BitVec.ofNat 9 op.row.value).toNat >>> (9 - k) := by
  simp only [candidate, encodeM]
  rw [show 32 - k = 5 + (16 + (2 + (9 - k))) by omega]
  simp only [toNat_append_shiftRight]

end Sys2Proof
end

