-- ==== Sys2Proof/Laws/PerInstr.lean ====
section
/-! SUPPORT. Families of facts about the instructions as syntax, one lemma per constructor of Instr. -/

namespace Sys2Proof.Laws.OpcodeField

/-- The top bits of the encoded word are the opcode that R102's table gives the instruction. -/
def Statement (i : Instr) : Prop := candidate i.op.row.width (encode i) = i.op.row.value

theorem b (disp : Word) : Statement (.b disp) :=
  candidate_encodeB .b _ 6 (Nat.le_refl 6)

theorem sturb (rt rn : RegIdx) (disp : Word) : Statement (.sturb rt rn disp) :=
  candidate_encodeD .sturb _ _ _ 11 (Nat.le_refl 11)

theorem ldurb (rt rn : RegIdx) (disp : Word) : Statement (.ldurb rt rn disp) :=
  candidate_encodeD .ldurb _ _ _ 11 (Nat.le_refl 11)

theorem bCond (cond : BitVec 5) (disp : Word) : Statement (.bCond cond disp) :=
  candidate_encodeC .bCond _ _ 8 (Nat.le_refl 8)

theorem sturh (rt rn : RegIdx) (disp : Word) : Statement (.sturh rt rn disp) :=
  candidate_encodeD .sturh _ _ _ 11 (Nat.le_refl 11)

theorem ldurh (rt rn : RegIdx) (disp : Word) : Statement (.ldurh rt rn disp) :=
  candidate_encodeD .ldurh _ _ _ 11 (Nat.le_refl 11)

theorem and (rd rn rm : RegIdx) : Statement (.and rd rn rm) :=
  candidate_encodeR .and _ _ _ _ 11 (Nat.le_refl 11)

theorem add (rd rn rm : RegIdx) : Statement (.add rd rn rm) :=
  candidate_encodeR .add _ _ _ _ 11 (Nat.le_refl 11)

theorem addi (rd rn : RegIdx) (imm : Word) : Statement (.addi rd rn imm) :=
  candidate_encodeI .addi _ _ _ 10 (Nat.le_refl 10)

theorem andi (rd rn : RegIdx) (imm : Word) : Statement (.andi rd rn imm) :=
  candidate_encodeI .andi _ _ _ 10 (Nat.le_refl 10)

theorem bl (disp : Word) : Statement (.bl disp) :=
  candidate_encodeB .bl _ 6 (Nat.le_refl 6)

theorem sdiv (rd rn rm : RegIdx) : Statement (.sdiv rd rn rm) :=
  candidate_encodeR .divide _ _ _ _ 11 (Nat.le_refl 11)

theorem udiv (rd rn rm : RegIdx) : Statement (.udiv rd rn rm) :=
  candidate_encodeR .divide _ _ _ _ 11 (Nat.le_refl 11)

theorem mul (rd rn rm : RegIdx) : Statement (.mul rd rn rm) :=
  candidate_encodeR .mul _ _ _ _ 11 (Nat.le_refl 11)

theorem smulh (rd rn rm : RegIdx) : Statement (.smulh rd rn rm) :=
  candidate_encodeR .smulh _ _ _ _ 11 (Nat.le_refl 11)

theorem umulh (rd rn rm : RegIdx) : Statement (.umulh rd rn rm) :=
  candidate_encodeR .umulh _ _ _ _ 11 (Nat.le_refl 11)

theorem orr (rd rn rm : RegIdx) : Statement (.orr rd rn rm) :=
  candidate_encodeR .orr _ _ _ _ 11 (Nat.le_refl 11)

theorem adds (rd rn rm : RegIdx) : Statement (.adds rd rn rm) :=
  candidate_encodeR .adds _ _ _ _ 11 (Nat.le_refl 11)

theorem addis (rd rn : RegIdx) (imm : Word) : Statement (.addis rd rn imm) :=
  candidate_encodeI .addis _ _ _ 10 (Nat.le_refl 10)

theorem orri (rd rn : RegIdx) (imm : Word) : Statement (.orri rd rn imm) :=
  candidate_encodeI .orri _ _ _ 10 (Nat.le_refl 10)

theorem cbz (rt : RegIdx) (disp : Word) : Statement (.cbz rt disp) :=
  candidate_encodeC .cbz _ _ 8 (Nat.le_refl 8)

theorem cbnz (rt : RegIdx) (disp : Word) : Statement (.cbnz rt disp) :=
  candidate_encodeC .cbnz _ _ 8 (Nat.le_refl 8)

theorem sturw (rt rn : RegIdx) (disp : Word) : Statement (.sturw rt rn disp) :=
  candidate_encodeD .sturw _ _ _ 11 (Nat.le_refl 11)

theorem ldursw (rt rn : RegIdx) (disp : Word) : Statement (.ldursw rt rn disp) :=
  candidate_encodeD .ldursw _ _ _ 11 (Nat.le_refl 11)

theorem stxr (rt rn : RegIdx) (disp : Word) : Statement (.stxr rt rn disp) :=
  candidate_encodeD .stxr _ _ _ 11 (Nat.le_refl 11)

theorem ldxr (rt rn : RegIdx) (disp : Word) : Statement (.ldxr rt rn disp) :=
  candidate_encodeD .ldxr _ _ _ 11 (Nat.le_refl 11)

theorem eor (rd rn rm : RegIdx) : Statement (.eor rd rn rm) :=
  candidate_encodeR .eor _ _ _ _ 11 (Nat.le_refl 11)

theorem sub (rd rn rm : RegIdx) : Statement (.sub rd rn rm) :=
  candidate_encodeR .sub _ _ _ _ 11 (Nat.le_refl 11)

theorem subi (rd rn : RegIdx) (imm : Word) : Statement (.subi rd rn imm) :=
  candidate_encodeI .subi _ _ _ 10 (Nat.le_refl 10)

theorem eori (rd rn : RegIdx) (imm : Word) : Statement (.eori rd rn imm) :=
  candidate_encodeI .eori _ _ _ 10 (Nat.le_refl 10)

theorem movz (rd : RegIdx) (imm : BitVec 16) (slot : BitVec 2) : Statement (.movz rd imm slot) :=
  candidate_encodeM .movz _ _ _ 9 (Nat.le_refl 9)

theorem lsr (rd rn : RegIdx) (shamt : BitVec 6) : Statement (.lsr rd rn shamt) :=
  candidate_encodeR .lsr _ _ _ _ 11 (Nat.le_refl 11)

theorem lsl (rd rn : RegIdx) (shamt : BitVec 6) : Statement (.lsl rd rn shamt) :=
  candidate_encodeR .lsl _ _ _ _ 11 (Nat.le_refl 11)

theorem br (rn : RegIdx) : Statement (.br rn) :=
  candidate_encodeR .br _ _ _ _ 11 (Nat.le_refl 11)

theorem ands (rd rn rm : RegIdx) : Statement (.ands rd rn rm) :=
  candidate_encodeR .ands _ _ _ _ 11 (Nat.le_refl 11)

theorem subs (rd rn rm : RegIdx) : Statement (.subs rd rn rm) :=
  candidate_encodeR .subs _ _ _ _ 11 (Nat.le_refl 11)

theorem subis (rd rn : RegIdx) (imm : Word) : Statement (.subis rd rn imm) :=
  candidate_encodeI .subis _ _ _ 10 (Nat.le_refl 10)

theorem andis (rd rn : RegIdx) (imm : Word) : Statement (.andis rd rn imm) :=
  candidate_encodeI .andis _ _ _ 10 (Nat.le_refl 10)

theorem movk (rd : RegIdx) (imm : BitVec 16) (slot : BitVec 2) : Statement (.movk rd imm slot) :=
  candidate_encodeM .movk _ _ _ 9 (Nat.le_refl 9)

theorem stur (rt rn : RegIdx) (disp : Word) : Statement (.stur rt rn disp) :=
  candidate_encodeD .stur _ _ _ 11 (Nat.le_refl 11)

theorem ldur (rt rn : RegIdx) (disp : Word) : Statement (.ldur rt rn disp) :=
  candidate_encodeD .ldur _ _ _ 11 (Nat.le_refl 11)

theorem exit : Statement (.exit) :=
  candidate_encodeR .exit _ _ _ _ 11 (Nat.le_refl 11)

end Sys2Proof.Laws.OpcodeField
end

