-- ==== Sys2Proof/Laws/State.lean ====
section
/-! SUPPORT. One lemma per field per update of State, so that no later proof unfolds a record update. -/

namespace Sys2Proof.Machine

/-! ## setReg (its registers: Laws/Registers.lean) -/

@[simp] theorem State.setReg_params (s : State) (r : RegIdx) (v : Word) : (s.setReg r v).params = s.params := by
  unfold State.setReg; split <;> rfl
@[simp] theorem State.setReg_imem (s : State) (r : RegIdx) (v : Word) : (s.setReg r v).imem = s.imem := by
  unfold State.setReg; split <;> rfl
@[simp] theorem State.setReg_pc (s : State) (r : RegIdx) (v : Word) : (s.setReg r v).pc = s.pc := by
  unfold State.setReg; split <;> rfl
@[simp] theorem State.setReg_flags (s : State) (r : RegIdx) (v : Word) : (s.setReg r v).flags = s.flags := by
  unfold State.setReg; split <;> rfl
@[simp] theorem State.setReg_dmem (s : State) (r : RegIdx) (v : Word) : (s.setReg r v).dmem = s.dmem := by
  unfold State.setReg; split <;> rfl
@[simp] theorem State.setReg_fetchBuf (s : State) (r : RegIdx) (v : Word) : (s.setReg r v).fetchBuf = s.fetchBuf := by
  unfold State.setReg; split <;> rfl
@[simp] theorem State.setReg_decodeBuf (s : State) (r : RegIdx) (v : Word) : (s.setReg r v).decodeBuf = s.decodeBuf := by
  unfold State.setReg; split <;> rfl
@[simp] theorem State.setReg_executeBuf (s : State) (r : RegIdx) (v : Word) : (s.setReg r v).executeBuf = s.executeBuf := by
  unfold State.setReg; split <;> rfl
@[simp] theorem State.setReg_writebackBuf (s : State) (r : RegIdx) (v : Word) : (s.setReg r v).writebackBuf = s.writebackBuf := by
  unfold State.setReg; split <;> rfl
@[simp] theorem State.setReg_hzN (s : State) (r : RegIdx) (v : Word) : (s.setReg r v).hzN = s.hzN := by
  unfold State.setReg; split <;> rfl
@[simp] theorem State.setReg_hzM (s : State) (r : RegIdx) (v : Word) : (s.setReg r v).hzM = s.hzM := by
  unfold State.setReg; split <;> rfl
@[simp] theorem State.setReg_hzT (s : State) (r : RegIdx) (v : Word) : (s.setReg r v).hzT = s.hzT := by
  unfold State.setReg; split <;> rfl
@[simp] theorem State.setReg_branchTaken (s : State) (r : RegIdx) (v : Word) : (s.setReg r v).branchTaken = s.branchTaken := by
  unfold State.setReg; split <;> rfl
@[simp] theorem State.setReg_programEnded (s : State) (r : RegIdx) (v : Word) : (s.setReg r v).programEnded = s.programEnded := by
  unfold State.setReg; split <;> rfl
@[simp] theorem State.setReg_cycleCount (s : State) (r : RegIdx) (v : Word) : (s.setReg r v).cycleCount = s.cycleCount := by
  unfold State.setReg; split <;> rfl
@[simp] theorem State.setReg_fault (s : State) (r : RegIdx) (v : Word) : (s.setReg r v).fault = s.fault := by
  unfold State.setReg; split <;> rfl

/-! ## commit -/

@[simp] theorem State.commit_params (s : State) (wb : Option WriteReq) : (s.commit wb).params = s.params := by
  cases wb <;> simp [State.commit]
@[simp] theorem State.commit_imem (s : State) (wb : Option WriteReq) : (s.commit wb).imem = s.imem := by
  cases wb <;> simp [State.commit]
@[simp] theorem State.commit_pc (s : State) (wb : Option WriteReq) : (s.commit wb).pc = s.pc := by
  cases wb <;> simp [State.commit]
@[simp] theorem State.commit_flags (s : State) (wb : Option WriteReq) : (s.commit wb).flags = s.flags := by
  cases wb <;> simp [State.commit]
@[simp] theorem State.commit_dmem (s : State) (wb : Option WriteReq) : (s.commit wb).dmem = s.dmem := by
  cases wb <;> simp [State.commit]
@[simp] theorem State.commit_fetchBuf (s : State) (wb : Option WriteReq) : (s.commit wb).fetchBuf = s.fetchBuf := by
  cases wb <;> simp [State.commit]
@[simp] theorem State.commit_decodeBuf (s : State) (wb : Option WriteReq) : (s.commit wb).decodeBuf = s.decodeBuf := by
  cases wb <;> simp [State.commit]
@[simp] theorem State.commit_executeBuf (s : State) (wb : Option WriteReq) : (s.commit wb).executeBuf = s.executeBuf := by
  cases wb <;> simp [State.commit]
@[simp] theorem State.commit_writebackBuf (s : State) (wb : Option WriteReq) : (s.commit wb).writebackBuf = s.writebackBuf := by
  cases wb <;> simp [State.commit]
@[simp] theorem State.commit_hzN (s : State) (wb : Option WriteReq) : (s.commit wb).hzN = s.hzN := by
  cases wb <;> simp [State.commit]
@[simp] theorem State.commit_hzM (s : State) (wb : Option WriteReq) : (s.commit wb).hzM = s.hzM := by
  cases wb <;> simp [State.commit]
@[simp] theorem State.commit_hzT (s : State) (wb : Option WriteReq) : (s.commit wb).hzT = s.hzT := by
  cases wb <;> simp [State.commit]
@[simp] theorem State.commit_branchTaken (s : State) (wb : Option WriteReq) : (s.commit wb).branchTaken = s.branchTaken := by
  cases wb <;> simp [State.commit]
@[simp] theorem State.commit_programEnded (s : State) (wb : Option WriteReq) : (s.commit wb).programEnded = s.programEnded := by
  cases wb <;> simp [State.commit]
@[simp] theorem State.commit_cycleCount (s : State) (wb : Option WriteReq) : (s.commit wb).cycleCount = s.cycleCount := by
  cases wb <;> simp [State.commit]
@[simp] theorem State.commit_fault (s : State) (wb : Option WriteReq) : (s.commit wb).fault = s.fault := by
  cases wb <;> simp [State.commit]

/-! ## commitWriteback -/

@[simp] theorem State.commitWriteback_params (s : State) : (s.commitWriteback).params = s.params := by
  unfold State.commitWriteback; split <;> simp
@[simp] theorem State.commitWriteback_imem (s : State) : (s.commitWriteback).imem = s.imem := by
  unfold State.commitWriteback; split <;> simp
@[simp] theorem State.commitWriteback_pc (s : State) : (s.commitWriteback).pc = s.pc := by
  unfold State.commitWriteback; split <;> simp
@[simp] theorem State.commitWriteback_flags (s : State) : (s.commitWriteback).flags = s.flags := by
  unfold State.commitWriteback; split <;> simp
@[simp] theorem State.commitWriteback_dmem (s : State) : (s.commitWriteback).dmem = s.dmem := by
  unfold State.commitWriteback; split <;> simp
@[simp] theorem State.commitWriteback_fetchBuf (s : State) : (s.commitWriteback).fetchBuf = s.fetchBuf := by
  unfold State.commitWriteback; split <;> simp
@[simp] theorem State.commitWriteback_decodeBuf (s : State) : (s.commitWriteback).decodeBuf = s.decodeBuf := by
  unfold State.commitWriteback; split <;> simp
@[simp] theorem State.commitWriteback_executeBuf (s : State) : (s.commitWriteback).executeBuf = s.executeBuf := by
  unfold State.commitWriteback; split <;> simp
@[simp] theorem State.commitWriteback_writebackBuf (s : State) : (s.commitWriteback).writebackBuf = s.writebackBuf := by
  unfold State.commitWriteback; split <;> simp
@[simp] theorem State.commitWriteback_hzN (s : State) : (s.commitWriteback).hzN = s.hzN := by
  unfold State.commitWriteback; split <;> simp
@[simp] theorem State.commitWriteback_hzM (s : State) : (s.commitWriteback).hzM = s.hzM := by
  unfold State.commitWriteback; split <;> simp
@[simp] theorem State.commitWriteback_hzT (s : State) : (s.commitWriteback).hzT = s.hzT := by
  unfold State.commitWriteback; split <;> simp
@[simp] theorem State.commitWriteback_branchTaken (s : State) : (s.commitWriteback).branchTaken = s.branchTaken := by
  unfold State.commitWriteback; split <;> simp
@[simp] theorem State.commitWriteback_programEnded (s : State) : (s.commitWriteback).programEnded = s.programEnded := by
  unfold State.commitWriteback; split <;> simp
@[simp] theorem State.commitWriteback_cycleCount (s : State) : (s.commitWriteback).cycleCount = s.cycleCount := by
  unfold State.commitWriteback; split <;> simp
@[simp] theorem State.commitWriteback_fault (s : State) : (s.commitWriteback).fault = s.fault := by
  unfold State.commitWriteback; split <;> simp

/-! ## applyEffect -/

@[simp] theorem State.applyEffect_params (s : State) (eff : Effect) : (s.applyEffect eff).params = s.params := rfl
@[simp] theorem State.applyEffect_imem (s : State) (eff : Effect) : (s.applyEffect eff).imem = s.imem := rfl
@[simp] theorem State.applyEffect_regs (s : State) (eff : Effect) : (s.applyEffect eff).regs = s.regs := rfl
@[simp] theorem State.applyEffect_pc (s : State) (eff : Effect) : (s.applyEffect eff).pc = eff.branch.pcAfter s.pc := rfl
@[simp] theorem State.applyEffect_flags (s : State) (eff : Effect) : (s.applyEffect eff).flags = eff.flags.getD s.flags := rfl
@[simp] theorem State.applyEffect_dmem (s : State) (eff : Effect) : (s.applyEffect eff).dmem = s.dmem.after eff.access := rfl
@[simp] theorem State.applyEffect_fetchBuf (s : State) (eff : Effect) : (s.applyEffect eff).fetchBuf = s.fetchBuf := rfl
@[simp] theorem State.applyEffect_decodeBuf (s : State) (eff : Effect) : (s.applyEffect eff).decodeBuf = s.decodeBuf := rfl
@[simp] theorem State.applyEffect_executeBuf (s : State) (eff : Effect) : (s.applyEffect eff).executeBuf = s.executeBuf := rfl
@[simp] theorem State.applyEffect_writebackBuf (s : State) (eff : Effect) : (s.applyEffect eff).writebackBuf = s.writebackBuf := rfl
@[simp] theorem State.applyEffect_hzN (s : State) (eff : Effect) : (s.applyEffect eff).hzN = s.hzN := rfl
@[simp] theorem State.applyEffect_hzM (s : State) (eff : Effect) : (s.applyEffect eff).hzM = s.hzM := rfl
@[simp] theorem State.applyEffect_hzT (s : State) (eff : Effect) : (s.applyEffect eff).hzT = s.hzT := rfl
@[simp] theorem State.applyEffect_branchTaken (s : State) (eff : Effect) : (s.applyEffect eff).branchTaken = s.branchTaken := rfl
@[simp] theorem State.applyEffect_programEnded (s : State) (eff : Effect) : (s.applyEffect eff).programEnded = (s.programEnded || eff.ended) := rfl
@[simp] theorem State.applyEffect_cycleCount (s : State) (eff : Effect) : (s.applyEffect eff).cycleCount = s.cycleCount := rfl
@[simp] theorem State.applyEffect_fault (s : State) (eff : Effect) : (s.applyEffect eff).fault = s.fault := rfl

/-! ## takeFault -/

@[simp] theorem State.takeFault_params (s : State) (c : Fault) (ipc info : Word) : (s.takeFault c ipc info).params = s.params := rfl
@[simp] theorem State.takeFault_imem (s : State) (c : Fault) (ipc info : Word) : (s.takeFault c ipc info).imem = s.imem := rfl
@[simp] theorem State.takeFault_regs (s : State) (c : Fault) (ipc info : Word) : (s.takeFault c ipc info).regs = s.regs := rfl
@[simp] theorem State.takeFault_pc (s : State) (c : Fault) (ipc info : Word) : (s.takeFault c ipc info).pc = s.pc := rfl
@[simp] theorem State.takeFault_flags (s : State) (c : Fault) (ipc info : Word) : (s.takeFault c ipc info).flags = s.flags := rfl
@[simp] theorem State.takeFault_dmem (s : State) (c : Fault) (ipc info : Word) : (s.takeFault c ipc info).dmem = s.dmem := rfl
@[simp] theorem State.takeFault_fetchBuf (s : State) (c : Fault) (ipc info : Word) : (s.takeFault c ipc info).fetchBuf = s.fetchBuf := rfl
@[simp] theorem State.takeFault_decodeBuf (s : State) (c : Fault) (ipc info : Word) : (s.takeFault c ipc info).decodeBuf = s.decodeBuf := rfl
@[simp] theorem State.takeFault_executeBuf (s : State) (c : Fault) (ipc info : Word) : (s.takeFault c ipc info).executeBuf = s.executeBuf := rfl
@[simp] theorem State.takeFault_writebackBuf (s : State) (c : Fault) (ipc info : Word) : (s.takeFault c ipc info).writebackBuf = s.writebackBuf := rfl
@[simp] theorem State.takeFault_hzN (s : State) (c : Fault) (ipc info : Word) : (s.takeFault c ipc info).hzN = s.hzN := rfl
@[simp] theorem State.takeFault_hzM (s : State) (c : Fault) (ipc info : Word) : (s.takeFault c ipc info).hzM = s.hzM := rfl
@[simp] theorem State.takeFault_hzT (s : State) (c : Fault) (ipc info : Word) : (s.takeFault c ipc info).hzT = s.hzT := rfl
@[simp] theorem State.takeFault_branchTaken (s : State) (c : Fault) (ipc info : Word) : (s.takeFault c ipc info).branchTaken = s.branchTaken := rfl
@[simp] theorem State.takeFault_programEnded (s : State) (c : Fault) (ipc info : Word) : (s.takeFault c ipc info).programEnded = s.programEnded := rfl
@[simp] theorem State.takeFault_cycleCount (s : State) (c : Fault) (ipc info : Word) : (s.takeFault c ipc info).cycleCount = s.cycleCount := rfl
@[simp] theorem State.takeFault_fault (s : State) (c : Fault) (ipc info : Word) : (s.takeFault c ipc info).fault = some { cause := c, ipc := ipc, info := info } := rfl

/-! ## fetchNext -/

@[simp] theorem State.fetchNext_params (s : State) : (s.fetchNext).params = s.params := rfl
@[simp] theorem State.fetchNext_imem (s : State) : (s.fetchNext).imem = s.imem := rfl
@[simp] theorem State.fetchNext_regs (s : State) : (s.fetchNext).regs = s.regs := rfl
@[simp] theorem State.fetchNext_pc (s : State) : (s.fetchNext).pc = s.pc + 1 := rfl
@[simp] theorem State.fetchNext_flags (s : State) : (s.fetchNext).flags = s.flags := rfl
@[simp] theorem State.fetchNext_dmem (s : State) : (s.fetchNext).dmem = s.dmem := rfl
@[simp] theorem State.fetchNext_fetchBuf (s : State) : (s.fetchNext).fetchBuf = some s.fetched := rfl
@[simp] theorem State.fetchNext_decodeBuf (s : State) : (s.fetchNext).decodeBuf = s.decodeBuf := rfl
@[simp] theorem State.fetchNext_executeBuf (s : State) : (s.fetchNext).executeBuf = s.executeBuf := rfl
@[simp] theorem State.fetchNext_writebackBuf (s : State) : (s.fetchNext).writebackBuf = s.writebackBuf := rfl
@[simp] theorem State.fetchNext_hzN (s : State) : (s.fetchNext).hzN = s.hzN := rfl
@[simp] theorem State.fetchNext_hzM (s : State) : (s.fetchNext).hzM = s.hzM := rfl
@[simp] theorem State.fetchNext_hzT (s : State) : (s.fetchNext).hzT = s.hzT := rfl
@[simp] theorem State.fetchNext_branchTaken (s : State) : (s.fetchNext).branchTaken = s.branchTaken := rfl
@[simp] theorem State.fetchNext_programEnded (s : State) : (s.fetchNext).programEnded = s.programEnded := rfl
@[simp] theorem State.fetchNext_cycleCount (s : State) : (s.fetchNext).cycleCount = s.cycleCount := rfl
@[simp] theorem State.fetchNext_fault (s : State) : (s.fetchNext).fault = s.fault := rfl

/-! ## issue -/

@[simp] theorem State.issue_params (s : State) (r : Record) : (s.issue r).params = s.params := rfl
@[simp] theorem State.issue_imem (s : State) (r : Record) : (s.issue r).imem = s.imem := rfl
@[simp] theorem State.issue_regs (s : State) (r : Record) : (s.issue r).regs = s.regs := rfl
@[simp] theorem State.issue_pc (s : State) (r : Record) : (s.issue r).pc = s.pc + 1 := rfl
@[simp] theorem State.issue_flags (s : State) (r : Record) : (s.issue r).flags = s.flags := rfl
@[simp] theorem State.issue_dmem (s : State) (r : Record) : (s.issue r).dmem = s.dmem := rfl
@[simp] theorem State.issue_fetchBuf (s : State) (r : Record) : (s.issue r).fetchBuf = none := rfl
@[simp] theorem State.issue_decodeBuf (s : State) (r : Record) : (s.issue r).decodeBuf = none := rfl
@[simp] theorem State.issue_executeBuf (s : State) (r : Record) : (s.issue r).executeBuf = some (s.loadOperands r s.pc) := rfl
@[simp] theorem State.issue_writebackBuf (s : State) (r : Record) : (s.issue r).writebackBuf = s.writebackBuf := rfl
@[simp] theorem State.issue_hzN (s : State) (r : Record) : (s.issue r).hzN = s.hzN := rfl
@[simp] theorem State.issue_hzM (s : State) (r : Record) : (s.issue r).hzM = s.hzM := rfl
@[simp] theorem State.issue_hzT (s : State) (r : Record) : (s.issue r).hzT = s.hzT := rfl
@[simp] theorem State.issue_branchTaken (s : State) (r : Record) : (s.issue r).branchTaken = s.branchTaken := rfl
@[simp] theorem State.issue_programEnded (s : State) (r : Record) : (s.issue r).programEnded = s.programEnded := rfl
@[simp] theorem State.issue_cycleCount (s : State) (r : Record) : (s.issue r).cycleCount = s.cycleCount + 3 := rfl
@[simp] theorem State.issue_fault (s : State) (r : Record) : (s.issue r).fault = s.fault := rfl

/-! ## decodeStep -/

@[simp] theorem State.decodeStep_params (s : State) : (s.decodeStep).params = s.params := rfl
@[simp] theorem State.decodeStep_imem (s : State) : (s.decodeStep).imem = s.imem := rfl
@[simp] theorem State.decodeStep_regs (s : State) : (s.decodeStep).regs = s.regs := rfl
@[simp] theorem State.decodeStep_pc (s : State) : (s.decodeStep).pc = s.pc := rfl
@[simp] theorem State.decodeStep_flags (s : State) : (s.decodeStep).flags = s.flags := rfl
@[simp] theorem State.decodeStep_dmem (s : State) : (s.decodeStep).dmem = s.dmem := rfl
@[simp] theorem State.decodeStep_fetchBuf (s : State) : (s.decodeStep).fetchBuf = s.fetchBuf := rfl
@[simp] theorem State.decodeStep_decodeBuf (s : State) : (s.decodeStep).decodeBuf = s.decodeBuf.map fun d => { d with record := some (decodeFetched d.word) } := rfl
@[simp] theorem State.decodeStep_executeBuf (s : State) : (s.decodeStep).executeBuf = s.executeBuf := rfl
@[simp] theorem State.decodeStep_writebackBuf (s : State) : (s.decodeStep).writebackBuf = s.writebackBuf := rfl
@[simp] theorem State.decodeStep_hzN (s : State) : (s.decodeStep).hzN = s.hzN := rfl
@[simp] theorem State.decodeStep_hzM (s : State) : (s.decodeStep).hzM = s.hzM := rfl
@[simp] theorem State.decodeStep_hzT (s : State) : (s.decodeStep).hzT = s.hzT := rfl
@[simp] theorem State.decodeStep_branchTaken (s : State) : (s.decodeStep).branchTaken = s.branchTaken := rfl
@[simp] theorem State.decodeStep_programEnded (s : State) : (s.decodeStep).programEnded = s.programEnded := rfl
@[simp] theorem State.decodeStep_cycleCount (s : State) : (s.decodeStep).cycleCount = s.cycleCount := rfl
@[simp] theorem State.decodeStep_fault (s : State) : (s.decodeStep).fault = s.fault := rfl

/-! ## countCycle -/

@[simp] theorem State.countCycle_params (s : State) : (s.countCycle).params = s.params := rfl
@[simp] theorem State.countCycle_imem (s : State) : (s.countCycle).imem = s.imem := rfl
@[simp] theorem State.countCycle_regs (s : State) : (s.countCycle).regs = s.regs := rfl
@[simp] theorem State.countCycle_pc (s : State) : (s.countCycle).pc = s.pc := rfl
@[simp] theorem State.countCycle_flags (s : State) : (s.countCycle).flags = s.flags := rfl
@[simp] theorem State.countCycle_dmem (s : State) : (s.countCycle).dmem = s.dmem := rfl
@[simp] theorem State.countCycle_fetchBuf (s : State) : (s.countCycle).fetchBuf = s.fetchBuf := rfl
@[simp] theorem State.countCycle_decodeBuf (s : State) : (s.countCycle).decodeBuf = s.decodeBuf := rfl
@[simp] theorem State.countCycle_executeBuf (s : State) : (s.countCycle).executeBuf = s.executeBuf := rfl
@[simp] theorem State.countCycle_writebackBuf (s : State) : (s.countCycle).writebackBuf = s.writebackBuf := rfl
@[simp] theorem State.countCycle_hzN (s : State) : (s.countCycle).hzN = s.hzN := rfl
@[simp] theorem State.countCycle_hzM (s : State) : (s.countCycle).hzM = s.hzM := rfl
@[simp] theorem State.countCycle_hzT (s : State) : (s.countCycle).hzT = s.hzT := rfl
@[simp] theorem State.countCycle_branchTaken (s : State) : (s.countCycle).branchTaken = s.branchTaken := rfl
@[simp] theorem State.countCycle_programEnded (s : State) : (s.countCycle).programEnded = s.programEnded := rfl
@[simp] theorem State.countCycle_cycleCount (s : State) : (s.countCycle).cycleCount = s.cycleCount + 1 := rfl
@[simp] theorem State.countCycle_fault (s : State) : (s.countCycle).fault = s.fault := rfl

/-! ## stallWith -/

@[simp] theorem State.stallWith_params (s : State) (n m t : Bool) : (s.stallWith n m t).params = s.params := rfl
@[simp] theorem State.stallWith_imem (s : State) (n m t : Bool) : (s.stallWith n m t).imem = s.imem := rfl
@[simp] theorem State.stallWith_regs (s : State) (n m t : Bool) : (s.stallWith n m t).regs = s.regs := rfl
@[simp] theorem State.stallWith_pc (s : State) (n m t : Bool) : (s.stallWith n m t).pc = s.pc := rfl
@[simp] theorem State.stallWith_flags (s : State) (n m t : Bool) : (s.stallWith n m t).flags = s.flags := rfl
@[simp] theorem State.stallWith_dmem (s : State) (n m t : Bool) : (s.stallWith n m t).dmem = s.dmem := rfl
@[simp] theorem State.stallWith_fetchBuf (s : State) (n m t : Bool) : (s.stallWith n m t).fetchBuf = s.fetchBuf := rfl
@[simp] theorem State.stallWith_decodeBuf (s : State) (n m t : Bool) : (s.stallWith n m t).decodeBuf = s.decodeBuf := rfl
@[simp] theorem State.stallWith_executeBuf (s : State) (n m t : Bool) : (s.stallWith n m t).executeBuf = none := rfl
@[simp] theorem State.stallWith_writebackBuf (s : State) (n m t : Bool) : (s.stallWith n m t).writebackBuf = s.executeBuf := rfl
@[simp] theorem State.stallWith_hzN (s : State) (n m t : Bool) : (s.stallWith n m t).hzN = n := rfl
@[simp] theorem State.stallWith_hzM (s : State) (n m t : Bool) : (s.stallWith n m t).hzM = m := rfl
@[simp] theorem State.stallWith_hzT (s : State) (n m t : Bool) : (s.stallWith n m t).hzT = t := rfl
@[simp] theorem State.stallWith_branchTaken (s : State) (n m t : Bool) : (s.stallWith n m t).branchTaken = s.branchTaken := rfl
@[simp] theorem State.stallWith_programEnded (s : State) (n m t : Bool) : (s.stallWith n m t).programEnded = s.programEnded := rfl
@[simp] theorem State.stallWith_cycleCount (s : State) (n m t : Bool) : (s.stallWith n m t).cycleCount = s.cycleCount := rfl
@[simp] theorem State.stallWith_fault (s : State) (n m t : Bool) : (s.stallWith n m t).fault = s.fault := rfl

/-! ## flush -/

@[simp] theorem State.flush_params (s : State) : (s.flush).params = s.params := rfl
@[simp] theorem State.flush_imem (s : State) : (s.flush).imem = s.imem := rfl
@[simp] theorem State.flush_regs (s : State) : (s.flush).regs = s.regs := rfl
@[simp] theorem State.flush_pc (s : State) : (s.flush).pc = s.pc := rfl
@[simp] theorem State.flush_flags (s : State) : (s.flush).flags = s.flags := rfl
@[simp] theorem State.flush_dmem (s : State) : (s.flush).dmem = s.dmem := rfl
@[simp] theorem State.flush_fetchBuf (s : State) : (s.flush).fetchBuf = s.fetchBuf := rfl
@[simp] theorem State.flush_decodeBuf (s : State) : (s.flush).decodeBuf = none := rfl
@[simp] theorem State.flush_executeBuf (s : State) : (s.flush).executeBuf = none := rfl
@[simp] theorem State.flush_writebackBuf (s : State) : (s.flush).writebackBuf = s.executeBuf := rfl
@[simp] theorem State.flush_hzN (s : State) : (s.flush).hzN = s.hzN := rfl
@[simp] theorem State.flush_hzM (s : State) : (s.flush).hzM = s.hzM := rfl
@[simp] theorem State.flush_hzT (s : State) : (s.flush).hzT = s.hzT := rfl
@[simp] theorem State.flush_branchTaken (s : State) : (s.flush).branchTaken = false := rfl
@[simp] theorem State.flush_programEnded (s : State) : (s.flush).programEnded = s.programEnded := rfl
@[simp] theorem State.flush_cycleCount (s : State) : (s.flush).cycleCount = s.cycleCount := rfl
@[simp] theorem State.flush_fault (s : State) : (s.flush).fault = s.fault := rfl

/-! ## advance -/

@[simp] theorem State.advance_params (s : State) : (s.advance).params = s.params := rfl
@[simp] theorem State.advance_imem (s : State) : (s.advance).imem = s.imem := rfl
@[simp] theorem State.advance_regs (s : State) : (s.advance).regs = s.regs := rfl
@[simp] theorem State.advance_pc (s : State) : (s.advance).pc = s.pc := rfl
@[simp] theorem State.advance_flags (s : State) : (s.advance).flags = s.flags := rfl
@[simp] theorem State.advance_dmem (s : State) : (s.advance).dmem = s.dmem := rfl
@[simp] theorem State.advance_fetchBuf (s : State) : (s.advance).fetchBuf = s.fetchBuf := rfl
@[simp] theorem State.advance_decodeBuf (s : State) : (s.advance).decodeBuf = s.fetchBuf.map FetchBuf.toDecode := rfl
@[simp] theorem State.advance_executeBuf (s : State) : (s.advance).executeBuf = s.decodeBuf.map s.resolve := rfl
@[simp] theorem State.advance_writebackBuf (s : State) : (s.advance).writebackBuf = s.executeBuf := rfl
@[simp] theorem State.advance_hzN (s : State) : (s.advance).hzN = s.hzN := rfl
@[simp] theorem State.advance_hzM (s : State) : (s.advance).hzM = s.hzM := rfl
@[simp] theorem State.advance_hzT (s : State) : (s.advance).hzT = s.hzT := rfl
@[simp] theorem State.advance_branchTaken (s : State) : (s.advance).branchTaken = s.branchTaken := rfl
@[simp] theorem State.advance_programEnded (s : State) : (s.advance).programEnded = s.programEnded := rfl
@[simp] theorem State.advance_cycleCount (s : State) : (s.advance).cycleCount = s.cycleCount := rfl
@[simp] theorem State.advance_fault (s : State) : (s.advance).fault = s.fault := rfl

/-! ## forwardStep (the other fields: Laws/Pipeline.lean) -/

@[simp] theorem State.forwardStep_params (s : State) : (s.forwardStep).params = s.params := by
  unfold State.forwardStep; split <;> rfl
@[simp] theorem State.forwardStep_imem (s : State) : (s.forwardStep).imem = s.imem := by
  unfold State.forwardStep; split <;> rfl
@[simp] theorem State.forwardStep_regs (s : State) : (s.forwardStep).regs = s.regs := by
  unfold State.forwardStep; split <;> rfl
@[simp] theorem State.forwardStep_pc (s : State) : (s.forwardStep).pc = s.pc := by
  unfold State.forwardStep; split <;> rfl
@[simp] theorem State.forwardStep_flags (s : State) : (s.forwardStep).flags = s.flags := by
  unfold State.forwardStep; split <;> rfl
@[simp] theorem State.forwardStep_dmem (s : State) : (s.forwardStep).dmem = s.dmem := by
  unfold State.forwardStep; split <;> rfl
@[simp] theorem State.forwardStep_fetchBuf (s : State) : (s.forwardStep).fetchBuf = s.fetchBuf := by
  unfold State.forwardStep; split <;> rfl
@[simp] theorem State.forwardStep_executeBuf (s : State) : (s.forwardStep).executeBuf = s.executeBuf := by
  unfold State.forwardStep; split <;> rfl
@[simp] theorem State.forwardStep_writebackBuf (s : State) : (s.forwardStep).writebackBuf = s.writebackBuf := by
  unfold State.forwardStep; split <;> rfl
@[simp] theorem State.forwardStep_branchTaken (s : State) : (s.forwardStep).branchTaken = s.branchTaken := by
  unfold State.forwardStep; split <;> rfl
@[simp] theorem State.forwardStep_programEnded (s : State) : (s.forwardStep).programEnded = s.programEnded := by
  unfold State.forwardStep; split <;> rfl
@[simp] theorem State.forwardStep_cycleCount (s : State) : (s.forwardStep).cycleCount = s.cycleCount := by
  unfold State.forwardStep; split <;> rfl
@[simp] theorem State.forwardStep_fault (s : State) : (s.forwardStep).fault = s.fault := by
  unfold State.forwardStep; split <;> rfl

/-! ## fetchStep -/

@[simp] theorem State.fetchStep_params (s : State) : (s.fetchStep).params = s.params := by
  unfold State.fetchStep; split <;> rfl
@[simp] theorem State.fetchStep_imem (s : State) : (s.fetchStep).imem = s.imem := by
  unfold State.fetchStep; split <;> rfl
@[simp] theorem State.fetchStep_regs (s : State) : (s.fetchStep).regs = s.regs := by
  unfold State.fetchStep; split <;> rfl
@[simp] theorem State.fetchStep_flags (s : State) : (s.fetchStep).flags = s.flags := by
  unfold State.fetchStep; split <;> rfl
@[simp] theorem State.fetchStep_dmem (s : State) : (s.fetchStep).dmem = s.dmem := by
  unfold State.fetchStep; split <;> rfl
@[simp] theorem State.fetchStep_decodeBuf (s : State) : (s.fetchStep).decodeBuf = s.decodeBuf := by
  unfold State.fetchStep; split <;> rfl
@[simp] theorem State.fetchStep_executeBuf (s : State) : (s.fetchStep).executeBuf = s.executeBuf := by
  unfold State.fetchStep; split <;> rfl
@[simp] theorem State.fetchStep_writebackBuf (s : State) : (s.fetchStep).writebackBuf = s.writebackBuf := by
  unfold State.fetchStep; split <;> rfl
@[simp] theorem State.fetchStep_hzN (s : State) : (s.fetchStep).hzN = s.hzN := by
  unfold State.fetchStep; split <;> rfl
@[simp] theorem State.fetchStep_hzM (s : State) : (s.fetchStep).hzM = s.hzM := by
  unfold State.fetchStep; split <;> rfl
@[simp] theorem State.fetchStep_hzT (s : State) : (s.fetchStep).hzT = s.hzT := by
  unfold State.fetchStep; split <;> rfl
@[simp] theorem State.fetchStep_branchTaken (s : State) : (s.fetchStep).branchTaken = s.branchTaken := by
  unfold State.fetchStep; split <;> rfl
@[simp] theorem State.fetchStep_programEnded (s : State) : (s.fetchStep).programEnded = s.programEnded := by
  unfold State.fetchStep; split <;> rfl
@[simp] theorem State.fetchStep_cycleCount (s : State) : (s.fetchStep).cycleCount = s.cycleCount := by
  unfold State.fetchStep; split <;> rfl
@[simp] theorem State.fetchStep_fault (s : State) : (s.fetchStep).fault = s.fault := by
  unfold State.fetchStep; split <;> rfl

/-! ## seqWriteback -/

@[simp] theorem State.seqWriteback_params (s : State) : (s.seqWriteback).params = s.params := by
  simp [State.seqWriteback]
@[simp] theorem State.seqWriteback_imem (s : State) : (s.seqWriteback).imem = s.imem := by
  simp [State.seqWriteback]
@[simp] theorem State.seqWriteback_pc (s : State) : (s.seqWriteback).pc = s.pc := by
  simp [State.seqWriteback]
@[simp] theorem State.seqWriteback_flags (s : State) : (s.seqWriteback).flags = s.flags := by
  simp [State.seqWriteback]
@[simp] theorem State.seqWriteback_dmem (s : State) : (s.seqWriteback).dmem = s.dmem := by
  simp [State.seqWriteback]
@[simp] theorem State.seqWriteback_fetchBuf (s : State) : (s.seqWriteback).fetchBuf = s.fetchBuf := by
  simp [State.seqWriteback]
@[simp] theorem State.seqWriteback_decodeBuf (s : State) : (s.seqWriteback).decodeBuf = s.decodeBuf := by
  simp [State.seqWriteback]
@[simp] theorem State.seqWriteback_executeBuf (s : State) : (s.seqWriteback).executeBuf = none := by
  simp [State.seqWriteback]
@[simp] theorem State.seqWriteback_writebackBuf (s : State) : (s.seqWriteback).writebackBuf = none := by
  simp [State.seqWriteback]
@[simp] theorem State.seqWriteback_hzN (s : State) : (s.seqWriteback).hzN = s.hzN := by
  simp [State.seqWriteback]
@[simp] theorem State.seqWriteback_hzM (s : State) : (s.seqWriteback).hzM = s.hzM := by
  simp [State.seqWriteback]
@[simp] theorem State.seqWriteback_hzT (s : State) : (s.seqWriteback).hzT = s.hzT := by
  simp [State.seqWriteback]
@[simp] theorem State.seqWriteback_branchTaken (s : State) : (s.seqWriteback).branchTaken = s.branchTaken := by
  simp [State.seqWriteback]
@[simp] theorem State.seqWriteback_programEnded (s : State) : (s.seqWriteback).programEnded = s.programEnded := by
  simp [State.seqWriteback]
@[simp] theorem State.seqWriteback_cycleCount (s : State) : (s.seqWriteback).cycleCount = s.cycleCount + 1 := by
  simp [State.seqWriteback]
@[simp] theorem State.seqWriteback_fault (s : State) : (s.seqWriteback).fault = s.fault := by
  simp [State.seqWriteback]

/-! ## loadNext -/

@[simp] theorem State.loadNext_params (s : State) (w : IWord) : (s.loadNext w).params = { s.params with mode := .sequential } := rfl
@[simp] theorem State.loadNext_imem (s : State) (w : IWord) : (s.loadNext w).imem = imemPlace s.imem s.loadIndex.toNat w := rfl
@[simp] theorem State.loadNext_regs (s : State) (w : IWord) : (s.loadNext w).regs = s.regs := rfl
@[simp] theorem State.loadNext_pc (s : State) (w : IWord) : (s.loadNext w).pc = s.loadIndex := rfl
@[simp] theorem State.loadNext_flags (s : State) (w : IWord) : (s.loadNext w).flags = s.flags := rfl
@[simp] theorem State.loadNext_dmem (s : State) (w : IWord) : (s.loadNext w).dmem = s.dmem := rfl
@[simp] theorem State.loadNext_fetchBuf (s : State) (w : IWord) : (s.loadNext w).fetchBuf = none := rfl
@[simp] theorem State.loadNext_decodeBuf (s : State) (w : IWord) : (s.loadNext w).decodeBuf = none := rfl
@[simp] theorem State.loadNext_executeBuf (s : State) (w : IWord) : (s.loadNext w).executeBuf = none := rfl
@[simp] theorem State.loadNext_writebackBuf (s : State) (w : IWord) : (s.loadNext w).writebackBuf = s.writebackBuf := rfl
@[simp] theorem State.loadNext_hzN (s : State) (w : IWord) : (s.loadNext w).hzN = s.hzN := rfl
@[simp] theorem State.loadNext_hzM (s : State) (w : IWord) : (s.loadNext w).hzM = s.hzM := rfl
@[simp] theorem State.loadNext_hzT (s : State) (w : IWord) : (s.loadNext w).hzT = s.hzT := rfl
@[simp] theorem State.loadNext_branchTaken (s : State) (w : IWord) : (s.loadNext w).branchTaken = s.branchTaken := rfl
@[simp] theorem State.loadNext_programEnded (s : State) (w : IWord) : (s.loadNext w).programEnded = false := rfl
@[simp] theorem State.loadNext_cycleCount (s : State) (w : IWord) : (s.loadNext w).cycleCount = s.cycleCount := rfl
@[simp] theorem State.loadNext_fault (s : State) (w : IWord) : (s.loadNext w).fault = none := rfl

end Sys2Proof.Machine
end

