-- ==== Sys2Proof/Laws/Registers.lean ====
section
/-! SUPPORT. The register file's read and write (10_state.md R22, R23). -/

namespace Sys2Proof.Machine

/-- A register index is below 31 unless it is the zero register. -/
theorem toNat_lt_of_ne_zeroReg {r : RegIdx} (h : r ≠ zeroReg) : r.toNat < 31 := by
  have h1 : r.toNat ≠ 31 := fun h2 => h (BitVec.eq_of_toNat_eq (by simpa [zeroReg] using h2))
  have := r.isLt
  omega

theorem zeroReg_toNat : zeroReg.toNat = 31 := rfl

/-- What a register reads after a write: the written register its new value, unless it is the zero register. -/
theorem State.reg_setReg (s : State) (r q : RegIdx) (v : Word) :
    (s.setReg r v).reg q = if q = r ∧ r ≠ zeroReg then v else s.reg q := by
  by_cases hr : r = zeroReg
  · subst hr; simp [State.setReg, zeroReg_toNat]
  · have hlt := toNat_lt_of_ne_zeroReg hr
    by_cases hq : q = r
    · subst hq; simp [State.setReg, State.reg, hlt, hr]
    · have hne : r.toNat ≠ q.toNat := fun h => hq (BitVec.eq_of_toNat_eq h.symm)
      by_cases hql : q.toNat < 31
      · simp [State.setReg, State.reg, hlt, hql, hq, hne]
      · simp [State.reg, hql, hq]

/-- What a register reads after a commit. -/
theorem State.reg_commit (s : State) (wb : Option WriteReq) (r : RegIdx) :
    (s.commit wb).reg r =
      match wb with
      | some q => if r = q.reg ∧ q.reg ≠ zeroReg then q.value else s.reg r
      | none => s.reg r := by
  cases wb with
  | none => rfl
  | some q => exact s.reg_setReg q.reg r q.value

/-- A register read depends on the register file alone. -/
theorem State.reg_congr {s t : State} (h : s.regs = t.regs) (r : RegIdx) : s.reg r = t.reg r := by
  simp [State.reg, h]

/-- A commit's register file depends on the register file alone. -/
theorem State.commit_regs_congr {s t : State} (h : s.regs = t.regs) (wb : Option WriteReq) :
    (s.commit wb).regs = (t.commit wb).regs := by
  cases wb with
  | none => exact h
  | some q => simp only [State.commit, State.setReg]; split <;> simp [h]

/-- Two register files that read alike are equal. -/
theorem State.regs_ext {s t : State} (h : ∀ r, s.reg r = t.reg r) : s.regs = t.regs := by
  refine Vector.ext fun i hi => ?_
  have := h (BitVec.ofNat 5 i)
  have hn : (BitVec.ofNat 5 i).toNat = i := by simp; omega
  simpa [State.reg, hn, hi] using this

end Sys2Proof.Machine
end

