-- ==== Sys2Proof/Laws/Pipeline.lean ====
section
/-! SUPPORT. What one cycle of pipelined mode can do (46_pipeline.md R276): the front half P1 to P3, Execute, the hazard
step, and the whole cycle, each said once. -/

namespace Sys2Proof.Machine

/-! ## The Forwarding step clears the hazard flags (47_hazards_forwarding.md R311) -/

@[simp] theorem State.anyHazard_forwardStep (s : State) : s.forwardStep.anyHazard = false := by
  unfold State.forwardStep
  split
  · rfl
  · simpa using ‹¬ s.anyHazard = true›

@[simp] theorem State.hzN_forwardStep (s : State) : s.forwardStep.hzN = false := by
  have := s.anyHazard_forwardStep
  simp only [State.anyHazard, Bool.or_eq_false_iff] at this
  exact this.1.1

@[simp] theorem State.hzM_forwardStep (s : State) : s.forwardStep.hzM = false := by
  have := s.anyHazard_forwardStep
  simp only [State.anyHazard, Bool.or_eq_false_iff] at this
  exact this.1.2

@[simp] theorem State.hzT_forwardStep (s : State) : s.forwardStep.hzT = false := by
  have := s.anyHazard_forwardStep
  simp only [State.anyHazard, Bool.or_eq_false_iff] at this
  exact this.2

/-! ## What P1 to P3 leave alone -/

@[simp] theorem State.frontHalf_params (s : State) : s.frontHalf.params = s.params := by simp [State.frontHalf]
@[simp] theorem State.frontHalf_imem (s : State) : s.frontHalf.imem = s.imem := by simp [State.frontHalf]
@[simp] theorem State.frontHalf_regs (s : State) : s.frontHalf.regs = s.regs := by simp [State.frontHalf]
@[simp] theorem State.frontHalf_flags (s : State) : s.frontHalf.flags = s.flags := by simp [State.frontHalf]
@[simp] theorem State.frontHalf_dmem (s : State) : s.frontHalf.dmem = s.dmem := by simp [State.frontHalf]
@[simp] theorem State.frontHalf_executeBuf (s : State) : s.frontHalf.executeBuf = s.executeBuf := by simp [State.frontHalf]
@[simp] theorem State.frontHalf_writebackBuf (s : State) : s.frontHalf.writebackBuf = s.writebackBuf := by simp [State.frontHalf]
@[simp] theorem State.frontHalf_branchTaken (s : State) : s.frontHalf.branchTaken = s.branchTaken := by simp [State.frontHalf]
@[simp] theorem State.frontHalf_programEnded (s : State) : s.frontHalf.programEnded = s.programEnded := by simp [State.frontHalf]
@[simp] theorem State.frontHalf_cycleCount (s : State) : s.frontHalf.cycleCount = s.cycleCount := by simp [State.frontHalf]
@[simp] theorem State.frontHalf_fault (s : State) : s.frontHalf.fault = s.fault := by simp [State.frontHalf]

/-- The PC after P1 to P3: advanced, unless a hazard flag holds Fetch (R277, R307). -/
theorem State.frontHalf_pc (s : State) : s.frontHalf.pc = if s.anyHazard then s.pc else s.pc + 1 := by
  simp only [State.frontHalf, State.forwardStep_pc, State.decodeStep_pc, State.fetchStep]
  split <;> simp

/-- F after P1 to P3: the word at the PC, unless a hazard flag holds Fetch (R277). -/
theorem State.frontHalf_fetchBuf (s : State) :
    s.frontHalf.fetchBuf = if s.anyHazard then s.fetchBuf else some s.fetched := by
  simp only [State.frontHalf, State.forwardStep_fetchBuf, State.decodeStep_fetchBuf, State.fetchStep]
  split <;> simp

@[simp] theorem State.frontHalf_anyHazard (s : State) : s.frontHalf.anyHazard = false := by
  simp [State.frontHalf]

/-! ## Execute -/

/-- The Execute step answers a next state with or without an instruction in E, or it refuses an unresolved operand. -/
theorem State.executeStep_cases (s : State) :
    (s.executeBuf = none ∧ s.executeStep = .next s) ∨
    (∃ e x, s.executeBuf = some e ∧ executeRecord e.record e s = some x ∧
      s.executeStep = .next (s.executeLatched e x)) ∨
    (∃ e, s.executeBuf = some e ∧ executeRecord e.record e s = none ∧
      s.executeStep = .refused .operandUnresolved) := by
  unfold State.executeStep
  cases he : s.executeBuf with
  | none => exact .inl ⟨rfl, rfl⟩
  | some e =>
    cases hx : executeRecord e.record e s with
    | some x => exact .inr (.inl ⟨e, x, rfl, hx, by simp only [hx]⟩)
    | none => exact .inr (.inr ⟨e, rfl, hx, by simp only [hx]⟩)

/-- The Execute step of an instruction with an effect. -/
theorem State.executeLatched_done (s : State) (e : ExecBuf) (eff : Effect) :
    s.executeLatched e (.done eff) =
      { s with
        flags := eff.flags.getD s.flags
        dmem := s.dmem.after eff.access
        pc := eff.branch.pcAfter s.pc
        programEnded := s.programEnded || eff.ended
        executeBuf := some { e with wb := eff.wb }
        branchTaken := s.branchTaken || eff.branch.isTaken } := rfl

/-- The Execute step of an instruction that raises a fault: the record is stored and nothing else changes. -/
theorem State.executeLatched_raises (s : State) (e : ExecBuf) (c : Fault) (info : Word) :
    s.executeLatched e (.raises c info) =
      { s with fault := some { cause := c, ipc := e.ipc, info := info } } := by
  simp [State.executeLatched, State.executeWith, State.takeFault, Executed.isTaken]

/-! ## The hazard step -/

/-- Without a dependency on path t a flush is taken exactly when one is pending. -/
theorem State.flushesNow_of_raw_t_false (s : State) (h : s.raw.t = false) : s.flushesNow = s.branchTaken := by
  simp [State.flushesNow, h]

/-- Under `belowFlush` a flush is taken exactly when one is pending (47_hazards_forwarding.md R305). -/
theorem State.flushesNow_of_belowFlush (s : State) (h : s.params.pathTPriority = .belowFlush) :
    s.flushesNow = s.branchTaken := by
  simp [State.flushesNow, h]

/-- Exactly one outcome is applied (47_hazards_forwarding.md R305); a branch is then either flushed, or still pending
behind a stall. -/
theorem State.hazardStep_cases (s : State) :
    ((s.raw.n || s.raw.m) = true ∧ s.hazardStep = s.stallWith s.raw.n s.raw.m s.raw.t) ∨
    ((s.raw.n || s.raw.m) = false ∧ s.branchTaken = true ∧
      (s.raw.t = false ∨ s.params.pathTPriority = .belowFlush) ∧ s.hazardStep = s.flush) ∨
    ((s.raw.n || s.raw.m) = false ∧ (s.branchTaken = false ∨ s.params.pathTPriority = .aboveFlush) ∧
      s.raw.t = true ∧ s.hazardStep = s.stallWith false false true) ∨
    ((s.raw.n || s.raw.m) = false ∧ s.branchTaken = false ∧ s.raw.t = false ∧ s.hazardStep = s.advance) := by
  unfold State.hazardStep State.hazardOutcome State.flushesNow
  cases h1 : (s.raw.n || s.raw.m) <;> cases h2 : s.branchTaken <;> cases h3 : s.raw.t <;>
    cases h4 : s.params.pathTPriority <;> simp

/-- No dependency is seen while E holds a bubble (R303). -/
theorem State.raw_of_executeBuf_none (s : State) (h : s.executeBuf = none) : s.raw = ⟨false, false, false⟩ := by
  unfold State.raw
  rw [h]
  cases s.decodeBuf <;> rfl

/-! ## The whole cycle -/

/-- A cycle answers a next state with or without an instruction in E, or it refuses an unresolved operand; it never
answers a fault outcome (log entry 6). -/
theorem State.pipeCycle_cases (s : State) :
    (s.executeBuf = none ∧ s.pipeCycle = .next s.frontHalf.finishCycle) ∨
    (∃ e x, s.executeBuf = some e ∧ executeRecord e.record e s.frontHalf = some x ∧
      s.pipeCycle = .next (s.frontHalf.executeLatched e x).finishCycle) ∨
    (∃ e, s.executeBuf = some e ∧ executeRecord e.record e s.frontHalf = none ∧
      s.pipeCycle = .refused .operandUnresolved) := by
  unfold State.pipeCycle
  rcases s.frontHalf.executeStep_cases with ⟨he, h⟩ | ⟨e, x, he, hx, h⟩ | ⟨e, he, hx, h⟩
  · exact .inl ⟨by simpa using he, by rw [h]⟩
  · exact .inr (.inl ⟨e, x, by simpa using he, hx, by rw [h]⟩)
  · exact .inr (.inr ⟨e, by simpa using he, hx, by rw [h]⟩)

/-- The step of a running pipelined core is one cycle. -/
theorem step_pipelined (s : State) (hm : s.params.mode = .pipelined) (hh : s.halted = false) :
    step s = s.pipeCycle := by
  simp [step, hm, State.pipeStep, hh]

/-- The step of a sequential core at an instruction boundary is one instruction. -/
theorem step_sequential (s : State) (hm : s.params.mode = .sequential) (hb : s.atBoundary = true)
    (hh : s.halted = false) : step s = s.seqInstruction := by
  have hh' : s.programEnded = false ∧ s.fault.isSome = false := by simpa [State.halted] using hh
  simp [step, hm, State.seqStep, State.seqStopped, hb, hh'.1, hh'.2]

end Sys2Proof.Machine
end

