-- ==== Sys2Proof/Laws/Sequential.lean ====
section
/-! SUPPORT. What one sequential instruction does (46_pipeline.md R272), once and for all: a completed instruction and
one that faults. Every meaning is one of the two, so the lemmas about a meaning cite these. -/

namespace Sys2Proof.Machine

/-- A completed instruction: the request is committed, the effect is applied at the advanced PC, four cycles are counted
and all buffers are empty. -/
theorem State.runRecord_done (s : State) (r : Record) (eff : Effect) :
    s.runRecord r (.done eff) =
      { s with
        regs := (s.commit eff.wb).regs
        pc := eff.branch.pcAfter (s.pc + 1)
        flags := eff.flags.getD s.flags
        dmem := s.dmem.after eff.access
        fetchBuf := none
        decodeBuf := none
        executeBuf := none
        writebackBuf := none
        programEnded := s.programEnded || eff.ended
        cycleCount := s.cycleCount + 4 } := by
  obtain ⟨wb, fl, acc, br, en⟩ := eff
  cases wb with
  | none => rfl
  | some q =>
    simp only [State.runRecord, State.executeWith, State.seqWriteback, State.commitWriteback, State.commit,
      State.setReg]
    split <;> rfl

/-- An instruction that faults: the record is stored, E keeps the instruction, three cycles are counted. -/
theorem State.runRecord_raises (s : State) (r : Record) (c : Fault) (info : Word) :
    s.runRecord r (.raises c info) =
      { s with
        pc := s.pc + 1
        fetchBuf := none
        decodeBuf := none
        executeBuf := some (s.loadOperands r s.pc)
        cycleCount := s.cycleCount + 3
        fault := some { cause := c, ipc := s.pc, info := info } } := rfl

/-- The registers after a completed instruction. -/
@[simp] theorem State.reg_runRecord_done (s : State) (r : Record) (eff : Effect) (q : RegIdx) :
    (s.runRecord r (.done eff)).reg q = (s.commit eff.wb).reg q := by
  rw [State.runRecord_done]; rfl

/-- A completed instruction keeps the control state and leaves the core at an instruction boundary. -/
theorem State.retired_runRecord_done (s : State) (r : Record) (eff : Effect) :
    Retired s (s.runRecord r (.done eff)) := by
  rw [State.runRecord_done]
  exact ⟨⟨rfl, rfl, rfl, rfl, rfl, rfl⟩, rfl, rfl, rfl, rfl, rfl, rfl⟩

/-- An instruction whose rule raises takes the fault and changes nothing else (60_exceptions.md R335). -/
theorem State.faults_runRecord_raises (s : State) (r : Record) (c : Fault) (info : Word) :
    Faults s (s.runRecord r (.raises c info)) c info :=
  ⟨⟨rfl, rfl, rfl, rfl, rfl, rfl⟩, rfl, fun _ => rfl, rfl, fun _ => rfl, rfl, rfl, rfl⟩

/-- A register write request, committed. -/
theorem State.writesReg_of_wb (s t : State) (rd : RegIdx) (v : Word)
    (h : ∀ r, t.reg r = (s.commit (some ⟨rd, v⟩)).reg r) : WritesReg s t rd v := fun r => by
  rw [h r, State.reg_commit]

/-- An instruction whose rule answers a plain register write. -/
theorem State.computes_runRecord (s : State) (r : Record) (rd : RegIdx) (v : Word) :
    Computes s (s.runRecord r (.done (Effect.write rd v))) rd v :=
  { State.retired_runRecord_done s r _ with
    regs := State.writesReg_of_wb _ _ _ _ fun q => State.reg_runRecord_done s r _ q
    flags := by rw [State.runRecord_done]; rfl
    memory := fun a => by rw [State.runRecord_done]; rfl
    pc := by rw [State.runRecord_done]; rfl
    programEnded := by rw [State.runRecord_done]; simp [Effect.write] }

/-- An instruction whose rule answers a register write with flags. -/
theorem State.computesFlags_runRecord (s : State) (r : Record) (rd : RegIdx) (v : Word) (f : Flags) :
    ComputesFlags s (s.runRecord r (.done (Effect.writeFlags rd v f))) rd v f :=
  { State.retired_runRecord_done s r _ with
    regs := State.writesReg_of_wb _ _ _ _ fun q => State.reg_runRecord_done s r _ q
    flags := by rw [State.runRecord_done]; rfl
    memory := fun a => by rw [State.runRecord_done]; rfl
    pc := by rw [State.runRecord_done]; rfl
    programEnded := by rw [State.runRecord_done]; simp [Effect.writeFlags] }

/-- An instruction whose rule only resolves a branch. -/
theorem State.goesTo_runRecord (s : State) (r : Record) (b : BranchOutcome) :
    GoesTo s (s.runRecord r (.done (Effect.jump b))) (b.pcAfter (s.pc + 1)) :=
  { State.retired_runRecord_done s r _ with
    regs := fun q => State.reg_runRecord_done s r _ q
    flags := by rw [State.runRecord_done]; rfl
    memory := fun a => by rw [State.runRecord_done]; rfl
    pc := by rw [State.runRecord_done]; rfl
    programEnded := by rw [State.runRecord_done]; simp [Effect.jump] }

/-- An instruction whose rule answers a store. -/
theorem State.stores_runRecord (s : State) (r : Record) (addr : Word) (size : Size) (v : Word) (h : Memory.wf s.dmem) :
    Stores s (s.runRecord r (.done { access := some ⟨.store, addr, size, v⟩ })) addr.toNat size.bytes v :=
  { State.retired_runRecord_done s r _ with
    regs := fun q => State.reg_runRecord_done s r _ q
    flags := by rw [State.runRecord_done]; rfl
    memory := by
      rw [State.runRecord_done]
      refine ⟨fun k hk => ?_, fun b hb => ?_⟩
      · simp only [Memory.after]
        rw [Memory.read_writeBE _ _ _ _ _ h, if_pos ⟨by omega, by omega⟩, Nat.add_sub_cancel_left]
      · simp only [Memory.after]
        rw [Memory.read_writeBE _ _ _ _ _ h, if_neg (by omega)]
    pc := by rw [State.runRecord_done]; rfl
    programEnded := by rw [State.runRecord_done]; simp }

/-- The answer of a load: a read of the whole access in range, else the fault (20_memory.md R68, 44_loadstore.md R230). -/
theorem loadRule_eq (s : State) (size : Size) (ext : Word → Word) (rt : RegIdx) (disp vn : Word) :
    loadRule s size ext rt disp vn =
      if (effectiveAddr vn disp).toNat + size.bytes ≤ s.params.dmemBytes then
        .done { wb := some ⟨rt, ext (s.dmem.readBE (effectiveAddr vn disp).toNat size.bytes)⟩
                access := some ⟨.load, effectiveAddr vn disp, size,
                  s.dmem.readBE (effectiveAddr vn disp).toNat size.bytes⟩ }
      else .raises .dataAddressOutOfRange (effectiveAddr vn disp) := by
  simp only [loadRule, inRange, decide_eq_true_eq]

/-- The answer of a store. -/
theorem storeRule_eq (s : State) (size : Size) (disp vn vt : Word) :
    storeRule s size disp vn vt =
      if (effectiveAddr vn disp).toNat + size.bytes ≤ s.params.dmemBytes then
        .done { access := some ⟨.store, effectiveAddr vn disp, size, vt⟩ }
      else .raises .dataAddressOutOfRange (effectiveAddr vn disp) := by
  simp only [storeRule, inRange, decide_eq_true_eq]

/-- A load in range writes its register and nothing else. -/
theorem State.computes_runRecord_load (s : State) (r : Record) (rt : RegIdx) (v : Word) (acc : Access)
    (h : acc.kind = .load) :
    Computes s (s.runRecord r (.done { wb := some ⟨rt, v⟩, access := some acc })) rt v := by
  obtain ⟨k, addr, size, w⟩ := acc
  subst h
  exact
    { State.retired_runRecord_done s r _ with
      regs := State.writesReg_of_wb _ _ _ _ fun q => State.reg_runRecord_done s r _ q
      flags := by rw [State.runRecord_done]; rfl
      memory := fun a => by rw [State.runRecord_done]; rfl
      pc := by rw [State.runRecord_done]; rfl
      programEnded := by rw [State.runRecord_done]; simp }

end Sys2Proof.Machine
end

