-- ==== Sys2Proof/Tests/Slice0.lean ====
section
/-! SUPPORT. The model's own tests. Every expected value is taken from spec/: the words and results of the rules' examples
and of 95_test_vectors.md. -/

namespace Sys2Proof.Tests

open Sys2Proof.Machine

/-! ## WellFormed refuses an immediate that its field cannot hold -/

theorem test_wf_refuses_alu_immediate : (Instr.addi 1 2 2048).wf = false := by decide
theorem test_wf_refuses_displacement : (Instr.stur 1 2 256).wf = false := by decide
theorem test_wf_refuses_branch : (Instr.b 0x2000000).wf = false := by decide
theorem test_wf_refuses_conditional_branch : (Instr.cbz 1 0x40000).wf = false := by decide
theorem test_wf_accepts_extremes :
    (Instr.addi 31 0 (-2048)).wf = true ∧ (Instr.subis 0 31 2047).wf = true ∧ (Instr.ldur 0 0 (-256)).wf = true ∧
    (Instr.sturb 0 0 255).wf = true ∧ (Instr.bl (-0x2000000)).wf = true ∧ (Instr.b 0x1FFFFFF).wf = true ∧
    (Instr.cbnz 0 (-0x40000)).wf = true ∧ (Instr.bCond 0 0x3FFFF).wf = true := by decide

/-! ## Every constructor's word, from the examples of its rule -/

theorem test_decode_b : decodeTableWord 32 0x14000002 = some (.b 2) := by decide
theorem test_encode_b : encode (.b 2) = 0x14000002 := by decide
theorem test_decode_sturb : decodeTableWord 32 0x381FF0C5 = some (.sturb 5 6 (-1)) := by decide
theorem test_encode_sturb : encode (.sturb 5 6 (-1)) = 0x381FF0C5 := by decide
theorem test_decode_ldurb : decodeTableWord 32 0x384000C7 = some (.ldurb 7 6 0) := by decide
theorem test_encode_ldurb : encode (.ldurb 7 6 0) = 0x384000C7 := by decide
theorem test_decode_bCond : decodeTableWord 32 0x54000040 = some (.bCond 0 2) := by decide
theorem test_encode_bCond : encode (.bCond 0 2) = 0x54000040 := by decide
theorem test_decode_sturh : decodeTableWord 32 0x780020C5 = some (.sturh 5 6 2) := by decide
theorem test_encode_sturh : encode (.sturh 5 6 2) = 0x780020C5 := by decide
theorem test_decode_ldurh : decodeTableWord 32 0x784020C7 = some (.ldurh 7 6 2) := by decide
theorem test_encode_ldurh : encode (.ldurh 7 6 2) = 0x784020C7 := by decide
theorem test_decode_and : decodeTableWord 32 0x8A020023 = some (.and 3 1 2) := by decide
theorem test_encode_and : encode (.and 3 1 2) = 0x8A020023 := by decide
theorem test_decode_add : decodeTableWord 32 0x8B020023 = some (.add 3 1 2) := by decide
theorem test_encode_add : encode (.add 3 1 2) = 0x8B020023 := by decide
theorem test_decode_addi : decodeTableWord 32 0x913FFC01 = some (.addi 1 0 (-1)) := by decide
theorem test_encode_addi : encode (.addi 1 0 (-1)) = 0x913FFC01 := by decide
theorem test_decode_andi : decodeTableWord 32 0x923C0022 = some (.andi 2 1 (-256)) := by decide
theorem test_encode_andi : encode (.andi 2 1 (-256)) = 0x923C0022 := by decide
theorem test_decode_bl : decodeTableWord 32 0x94000003 = some (.bl 3) := by decide
theorem test_encode_bl : encode (.bl 3) = 0x94000003 := by decide
theorem test_decode_sdiv : decodeTableWord 32 0x9AC20823 = some (.sdiv 3 1 2) := by decide
theorem test_encode_sdiv : encode (.sdiv 3 1 2) = 0x9AC20823 := by decide
theorem test_decode_udiv : decodeTableWord 32 0x9AC20C23 = some (.udiv 3 1 2) := by decide
theorem test_encode_udiv : encode (.udiv 3 1 2) = 0x9AC20C23 := by decide
theorem test_decode_mul : decodeTableWord 32 0x9B027C23 = some (.mul 3 1 2) := by decide
theorem test_encode_mul : encode (.mul 3 1 2) = 0x9B027C23 := by decide
theorem test_decode_smulh : decodeTableWord 32 0x9B420023 = some (.smulh 3 1 2) := by decide
theorem test_encode_smulh : encode (.smulh 3 1 2) = 0x9B420023 := by decide
theorem test_decode_umulh : decodeTableWord 32 0x9BC20023 = some (.umulh 3 1 2) := by decide
theorem test_encode_umulh : encode (.umulh 3 1 2) = 0x9BC20023 := by decide
theorem test_decode_orr : decodeTableWord 32 0xAA020023 = some (.orr 3 1 2) := by decide
theorem test_encode_orr : encode (.orr 3 1 2) = 0xAA020023 := by decide
theorem test_decode_adds : decodeTableWord 32 0xAB020023 = some (.adds 3 1 2) := by decide
theorem test_encode_adds : encode (.adds 3 1 2) = 0xAB020023 := by decide
theorem test_decode_addis : decodeTableWord 32 0xB1000422 = some (.addis 2 1 1) := by decide
theorem test_encode_addis : encode (.addis 2 1 1) = 0xB1000422 := by decide
theorem test_decode_orri : decodeTableWord 32 0xB2000422 = some (.orri 2 1 1) := by decide
theorem test_encode_orri : encode (.orri 2 1 1) = 0xB2000422 := by decide
theorem test_decode_cbz : decodeTableWord 32 0xB4000041 = some (.cbz 1 2) := by decide
theorem test_encode_cbz : encode (.cbz 1 2) = 0xB4000041 := by decide
theorem test_decode_cbnz : decodeTableWord 32 0xB5FFFFA1 = some (.cbnz 1 (-3)) := by decide
theorem test_encode_cbnz : encode (.cbnz 1 (-3)) = 0xB5FFFFA1 := by decide
theorem test_decode_sturw : decodeTableWord 32 0xB80040C5 = some (.sturw 5 6 4) := by decide
theorem test_encode_sturw : encode (.sturw 5 6 4) = 0xB80040C5 := by decide
theorem test_decode_ldursw : decodeTableWord 32 0xB88040C7 = some (.ldursw 7 6 4) := by decide
theorem test_encode_ldursw : encode (.ldursw 7 6 4) = 0xB88040C7 := by decide
theorem test_decode_stxr : decodeTableWord 32 0xC80000C5 = some (.stxr 5 6 0) := by decide
theorem test_encode_stxr : encode (.stxr 5 6 0) = 0xC80000C5 := by decide
theorem test_decode_ldxr : decodeTableWord 32 0xC84000C7 = some (.ldxr 7 6 0) := by decide
theorem test_encode_ldxr : encode (.ldxr 7 6 0) = 0xC84000C7 := by decide
theorem test_decode_eor : decodeTableWord 32 0xCA020023 = some (.eor 3 1 2) := by decide
theorem test_encode_eor : encode (.eor 3 1 2) = 0xCA020023 := by decide
theorem test_decode_sub : decodeTableWord 32 0xCB020023 = some (.sub 3 1 2) := by decide
theorem test_encode_sub : encode (.sub 3 1 2) = 0xCB020023 := by decide
theorem test_decode_subi : decodeTableWord 32 0xD1000421 = some (.subi 1 1 1) := by decide
theorem test_encode_subi : encode (.subi 1 1 1) = 0xD1000421 := by decide
theorem test_decode_eori : decodeTableWord 32 0xD23FFC22 = some (.eori 2 1 (-1)) := by decide
theorem test_encode_eori : encode (.eori 2 1 (-1)) = 0xD23FFC22 := by decide
theorem test_decode_movz : decodeTableWord 32 0xD2A24681 = some (.movz 1 0x1234 1) := by decide
theorem test_encode_movz : encode (.movz 1 0x1234 1) = 0xD2A24681 := by decide
theorem test_decode_lsr : decodeTableWord 32 0xD340FC22 = some (.lsr 2 1 63) := by decide
theorem test_encode_lsr : encode (.lsr 2 1 63) = 0xD340FC22 := by decide
theorem test_decode_lsl : decodeTableWord 32 0xD3601022 = some (.lsl 2 1 4) := by decide
theorem test_encode_lsl : encode (.lsl 2 1 4) = 0xD3601022 := by decide
theorem test_decode_br : decodeTableWord 32 0xD60003C0 = some (.br 30) := by decide
theorem test_encode_br : encode (.br 30) = 0xD60003C0 := by decide
theorem test_decode_ands : decodeTableWord 32 0xEA020023 = some (.ands 3 1 2) := by decide
theorem test_encode_ands : encode (.ands 3 1 2) = 0xEA020023 := by decide
theorem test_decode_subs : decodeTableWord 32 0xEB020020 = some (.subs 0 1 2) := by decide
theorem test_encode_subs : encode (.subs 0 1 2) = 0xEB020020 := by decide
theorem test_decode_subis : decodeTableWord 32 0xF1000422 = some (.subis 2 1 1) := by decide
theorem test_encode_subis : encode (.subis 2 1 1) = 0xF1000422 := by decide
theorem test_decode_andis : decodeTableWord 32 0xF2000422 = some (.andis 2 1 1) := by decide
theorem test_encode_andis : encode (.andis 2 1 1) = 0xF2000422 := by decide
theorem test_decode_movk : decodeTableWord 32 0xF297DDE1 = some (.movk 1 0xBEEF 0) := by decide
theorem test_encode_movk : encode (.movk 1 0xBEEF 0) = 0xF297DDE1 := by decide
theorem test_decode_stur : decodeTableWord 32 0xF80080C5 = some (.stur 5 6 8) := by decide
theorem test_encode_stur : encode (.stur 5 6 8) = 0xF80080C5 := by decide
theorem test_decode_ldur : decodeTableWord 32 0xF84080C7 = some (.ldur 7 6 8) := by decide
theorem test_encode_ldur : encode (.ldur 7 6 8) = 0xF84080C7 := by decide
theorem test_decode_exit : decodeTableWord 32 0xFFE00000 = some (.exit) := by decide
theorem test_encode_exit : encode (.exit) = 0xFFE00000 := by decide
/-! ## Words of part 2.8 -/

theorem test_unrecognized_words :
    ([0x00000000, 0x12345678, 0xFFC00000, 0x9AC00000, 0x9AC00423, 0x9AC01023, 0x1E622820, 0xBC400000, 0xFC400000].map
      (decodeTableWord 32)).all Option.isNone = true := by decide
theorem test_ignored_bits_words :
    decodeTableWord 32 0xFFFFFFFF = some .exit ∧ decodeTableWord 32 0x8B02FC23 = some (.add 3 1 2) ∧
    decodeTableWord 32 0xF80084C5 = some (.stur 5 6 8) ∧ decodeTableWord 32 0xD61F03C0 = some (.br 30) := by decide

/-! ## One step of one word -/

/-- A core of 16 data bytes with the program `imem`. -/
def tiny (m : Mode) (imem : List IWord) : State :=
  State.resetWith { mode := m, hazardScope := .full, pathTPriority := .belowFlush, dmemBytes := 16 } imem []

/-- Registers set by a model-level override (95_test_vectors.md). -/
def withRegs (s : State) (l : List (RegIdx × Word)) : State := l.foldl (fun s p => s.setReg p.1 p.2) s

/-- The next state, if there is one. -/
def next? (r : Result) : Option State :=
  match r with
  | .next s => some s
  | .fault _ => none
  | .refused _ => none

/-- The state after the word `w` at index 1. -/
def after (w : IWord) (l : List (RegIdx × Word)) : Option State := next? (step (withRegs (tiny .sequential [w]) l))

def registerAfter (w : IWord) (l : List (RegIdx × Word)) (r : RegIdx) : Option Word := (after w l).map (·.reg r)
def flagsAfter (w : IWord) (l : List (RegIdx × Word)) : Option Flags := (after w l).map (·.flags)
def pcAfter (w : IWord) (l : List (RegIdx × Word)) : Option Word := (after w l).map (·.pc)
def faultAfter (w : IWord) (l : List (RegIdx × Word)) : Option (Option FaultRecord × Nat) :=
  (after w l).map fun t => (t.fault, t.cycleCount)

theorem test_add_wraps : registerAfter 0x8B020023 [(1, 0xFFFFFFFFFFFFFFFF), (2, 2)] 3 = some 1 := by decide
theorem test_add_source_is_destination : registerAfter 0x8B010021 [(1, 21)] 1 = some 42 := by decide
theorem test_sub_borrows : registerAfter 0xCB020023 [(1, 0), (2, 1)] 3 = some 0xFFFFFFFFFFFFFFFF := by decide
theorem test_and : registerAfter 0x8A020023 [(1, 0xFF00FF00FF00FF00), (2, 0x0FF00FF00FF00FF0)] 3 = some 0x0F000F000F000F00 := by decide
theorem test_orr : registerAfter 0xAA020023 [(1, 0xFF00FF00FF00FF00), (2, 0x0FF00FF00FF00FF0)] 3 = some 0xFFF0FFF0FFF0FFF0 := by decide
theorem test_eor : registerAfter 0xCA020023 [(1, 0xFF00FF00FF00FF00), (2, 0x0FF00FF00FF00FF0)] 3 = some 0xF0F0F0F0F0F0F0F0 := by decide
theorem test_addi_negative : registerAfter 0x91200021 [(1, 0)] 1 = some 0xFFFFFFFFFFFFF800 := by decide
theorem test_subi : registerAfter 0xD13FFC21 [(1, 0)] 1 = some 1 := by decide
theorem test_andi_sign_extends : registerAfter 0x923C0022 [(1, 0x123456789ABCDEF0)] 2 = some 0x123456789ABCDE00 := by decide
theorem test_orri_sign_extends : registerAfter 0xB2200022 [(1, 0x10)] 2 = some 0xFFFFFFFFFFFFF810 := by decide
theorem test_eori : registerAfter 0xD23FFC22 [(1, 0xFF)] 2 = some 0xFFFFFFFFFFFFFF00 := by decide
theorem test_mul : registerAfter 0x9B027C23 [(1, 0xFFFFFFFFFFFFFFFF), (2, 3)] 3 = some 0xFFFFFFFFFFFFFFFD := by decide
theorem test_smulh : registerAfter 0x9B420023 [(1, 0x8000000000000000), (2, 2)] 3 = some 0xFFFFFFFFFFFFFFFF := by decide
theorem test_umulh : registerAfter 0x9BC20023 [(1, 0xFFFFFFFFFFFFFFFF), (2, 0xFFFFFFFFFFFFFFFF)] 3 = some 0xFFFFFFFFFFFFFFFE := by decide
theorem test_sdiv_toward_zero : registerAfter 0x9AC20823 [(1, 0xFFFFFFFFFFFFFFF9), (2, 2)] 3 = some 0xFFFFFFFFFFFFFFFD := by decide
theorem test_sdiv_overflow : registerAfter 0x9AC20823 [(1, 0x8000000000000000), (2, 0xFFFFFFFFFFFFFFFF)] 3 = some 0x8000000000000000 := by decide
theorem test_udiv : registerAfter 0x9AC20C23 [(1, 0xFFFFFFFFFFFFFFF9), (2, 2)] 3 = some 0x7FFFFFFFFFFFFFFC := by decide
theorem test_lsl : registerAfter 0xD3601022 [(1, 0xF00000000000000F)] 2 = some 0xF0 := by decide
theorem test_lsr : registerAfter 0xD340FC22 [(1, 0x8000000000000000)] 2 = some 1 := by decide
theorem test_movz : registerAfter 0xD2A24681 [(1, 0xFFFFFFFFFFFFFFFF)] 1 = some 0x12340000 := by decide
theorem test_movk : registerAfter 0xF2FFFFE1 [(1, 0x1234BEEF)] 1 = some 0xFFFF00001234BEEF := by decide
theorem test_adds_carry_and_overflow :
    registerAfter 0xAB020023 [(1, 0x8000000000000000), (2, 0x8000000000000000)] 3 = some 0 ∧ flagsAfter 0xAB020023 [(1, 0x8000000000000000), (2, 0x8000000000000000)] = some ⟨true, false, true, true⟩ := by decide
theorem test_subs_borrow_and_overflow :
    registerAfter 0xEB020023 [(1, 0), (2, 0x8000000000000000)] 3 = some 0x8000000000000000 ∧ flagsAfter 0xEB020023 [(1, 0), (2, 0x8000000000000000)] = some ⟨false, true, true, true⟩ := by decide
theorem test_ands_clears_carry :
    registerAfter 0xEA020023 [(1, 0x8000000000000000), (2, 0x8000000000000000)] 3 = some 0x8000000000000000 ∧ flagsAfter 0xEA020023 [(1, 0x8000000000000000), (2, 0x8000000000000000)] = some ⟨false, true, false, false⟩ := by decide
theorem test_addis_negative_immediate :
    registerAfter 0xB13FFC22 [(1, 1)] 2 = some 0 ∧ flagsAfter 0xB13FFC22 [(1, 1)] = some ⟨true, false, true, false⟩ := by decide
theorem test_subis_borrow :
    registerAfter 0xF1000422 [(1, 0)] 2 = some 0xFFFFFFFFFFFFFFFF ∧ flagsAfter 0xF1000422 [(1, 0)] = some ⟨false, true, true, false⟩ := by decide
theorem test_andis :
    registerAfter 0xF2000422 [(1, 6)] 2 = some 0 ∧ flagsAfter 0xF2000422 [(1, 6)] = some ⟨true, false, false, false⟩ := by decide
theorem test_zero_register_discards : registerAfter 0x8B02003F [(1, 5), (2, 6)] 31 = some 0 := by decide
theorem test_sdiv_by_zero :
    faultAfter 0x9AC20823 [(1, 7)] = some (some ⟨.divideByZero, 1, 0⟩, 3) := by decide
theorem test_udiv_by_zero_into_zero_register :
    faultAfter 0x9AC20C3F [(1, 7)] = some (some ⟨.divideByZero, 1, 0⟩, 3) := by decide
theorem test_b_to_itself : pcAfter 0x17FFFFFF [] = some 1 := by decide
theorem test_bl_links : registerAfter 0x94000003 [] 30 = some 2 ∧ pcAfter 0x94000003 [] = some 5 := by decide
theorem test_br_absolute : pcAfter 0xD60003C0 [(30, 3)] = some 3 := by decide
theorem test_cbz : pcAfter 0xB4000041 [(1, 0)] = some 4 ∧ pcAfter 0xB4000041 [(1, 1)] = some 2 := by decide
theorem test_cbnz : pcAfter 0xB5FFFFA1 [(1, 1)] = some (-1) ∧ pcAfter 0xB5FFFFA1 [] = some 2 := by decide
theorem test_exit_ends : (after 0xFFE00000 []).map (fun t => (t.programEnded, t.cycleCount, t.pc)) = some (true, 4, 2) := by
  decide
theorem test_unrecognized_does_nothing : pcAfter 0 [(1, 5)] = some 2 ∧ registerAfter 0 [(1, 5)] 1 = some 5 := by decide

/-- The taken and the untaken B.EQ of scenario 2. -/
theorem test_bCond :
    (next? (step { tiny .sequential [0x54000040] with flags := ⟨true, false, true, false⟩ })).map (fun t => (t.pc, t.flags)) =
      some (4, Flags.clear) ∧
    (next? (step { tiny .sequential [0x54000040] with flags := ⟨false, false, true, false⟩ })).map (fun t => (t.pc, t.flags)) =
      some (2, ⟨false, false, true, false⟩) := by decide

/-! ## Loads and stores of part 2.7 -/

/-- The stores' start: 32 bytes of 0xEE, X5 and X6 set. -/
def storeStart (w : IWord) : State :=
  withRegs (State.resetWith ⟨.sequential, .full, .belowFlush, 32⟩ [w] ((List.range 32).map fun a => (a, 0xEE)))
    [(5, 0x1122334455667788), (6, 8)]

/-- The eight bytes from `a` on after the store. -/
def bytesAfter (w : IWord) (a : Nat) : Option (List Byte) :=
  (next? (step (storeStart w))).map fun t => (List.range 8).map fun k => t.dmem.read (a + k)

theorem test_stur : bytesAfter 0xF80080C5 16 = some [0x11, 0x22, 0x33, 0x44, 0x55, 0x66, 0x77, 0x88] := by decide
theorem test_stur_misaligned : bytesAfter 0xF80033E5 3 = some [0x11, 0x22, 0x33, 0x44, 0x55, 0x66, 0x77, 0x88] := by decide
theorem test_sturw : bytesAfter 0xB80040C5 11 = some [0xEE, 0x55, 0x66, 0x77, 0x88, 0xEE, 0xEE, 0xEE] := by decide
theorem test_sturh : bytesAfter 0x780020C5 9 = some [0xEE, 0x77, 0x88, 0xEE, 0xEE, 0xEE, 0xEE, 0xEE] := by decide
theorem test_sturb : bytesAfter 0x381FF0C5 6 = some [0xEE, 0x88, 0xEE, 0xEE, 0xEE, 0xEE, 0xEE, 0xEE] := by decide
theorem test_stxr : bytesAfter 0xC80000C5 8 = some [0x11, 0x22, 0x33, 0x44, 0x55, 0x66, 0x77, 0x88] := by decide
theorem test_store_of_zero_keeps_canonical_form :
    (next? (step (storeStart 0xF80000DF))).map (fun t => (t.dmem.length, decide t.dmem.wf)) = some (24, true) := by decide

/-- The loads' start. -/
def loadStart (w x6 : Word) : State :=
  withRegs (State.resetWith ⟨.sequential, .full, .belowFlush, 16⟩ [w.setWidth 32]
    [(0, 0x11), (1, 0x22), (2, 0x33), (3, 0x44), (4, 0xF5), (5, 0x66), (6, 0x77), (7, 0x88), (8, 0x80), (9, 0x01), (10, 0xFF),
     (11, 0xFE), (12, 0x7F), (13, 0xFF), (14, 0xFF), (15, 0xFF)]) [(6, x6), (7, 0xAAAA)]

def loaded (w : Word) (x6 : Word := 0) : Option Word := (next? (step (loadStart w x6))).map (·.reg 7)

theorem test_ldur_misaligned : loaded 0xF84010C7 = some 0x223344F566778880 := by decide
theorem test_ldursw : loaded 0xB88040C7 = some 0xFFFFFFFFF5667788 ∧ loaded 0xB880C0C7 = some 0x7FFFFFFF := by decide
theorem test_ldurh : loaded 0x784080C7 = some 0x8001 := by decide
theorem test_ldurb_last_byte : loaded 0x3840F0C7 = some 0xFF := by decide
theorem test_ldurb_address_wraps : loaded 0x384010C7 0xFFFFFFFFFFFFFFFF = some 0x11 := by decide
theorem test_ldxr : loaded 0xC84080C7 = some 0x8001FFFE7FFFFFFF := by decide
theorem test_ldur_out_of_range :
    (next? (step (loadStart 0xF84090C7 0))).map (fun t => (t.fault, t.reg 7, t.cycleCount, t.pc)) =
      some (some ⟨.dataAddressOutOfRange, 1, 9⟩, 0xAAAA, 3, 2) := by decide
theorem test_ldurb_below_zero :
    (next? (step (loadStart 0x385FF0C7 0))).map (·.fault) =
      some (some ⟨.dataAddressOutOfRange, 1, 0xFFFFFFFFFFFFFFFF⟩) := by decide

/-! ## The host's load -/

theorem test_loaded_word_runs : (next? (step (State.reset.withFetchWord 32 0x91001401))).map (·.reg 1) = some 5 := by decide
theorem test_reset_memory_canonical : Memory.wf State.reset.dmem := by decide

/-! ## Witnesses: the hypotheses of the statements of Obligations.lean, met together

Each theorem is named after the statement whose hypotheses it meets; where a statement has several clauses it meets those of
each, at boundary values. -/

theorem witness_DecodeEncodeRoundTrip :
    (Instr.addi 31 0 (-2048)).wf = true ∧ (Instr.movk 31 0xFFFF 3).wf = true ∧ (Instr.b 0x1FFFFFF).wf = true := by decide

theorem witness_ReencodingReproducesTheWord :
    decode 0x9B027C23 = .ok (.mul 3 1 2) ∧ (Instr.mul 3 1 2).canonical 0x9B027C23 = true := ⟨rfl, by decide⟩

theorem witness_IgnoredBitsAndDivideRefinement :
    decode 0x8B020023 = .ok (.add 3 1 2) ∧
    (0x8B020023 : IWord) &&& ~~~(Instr.add 3 1 2).ignoredBits = 0x8B02FC23 &&& ~~~(Instr.add 3 1 2).ignoredBits ∧
    (0x9AC20823 : IWord) &&& 0xFFE00000 = 0x9AC00000 ∧ (3 : RegIdx) = (0x9AC20823 : IWord).extractLsb' 0 5 ∧
    (1 : RegIdx) = (0x9AC20823 : IWord).extractLsb' 5 5 ∧ (2 : RegIdx) = (0x9AC20823 : IWord).extractLsb' 16 5 :=
  ⟨rfl, by decide⟩

/-- Every row has a word with all operand bits 1 (its other hypotheses define the fields). -/
theorem witness_OpcodeTableRowsDecodeTheirFields :
    ([
    (0xFFE00000, 0x9AC00000), (0xFFE00000, 0x8A000000), (0xFFE00000, 0x8B000000), (0xFFE00000, 0x9B000000),
    (0xFFE00000, 0x9B400000), (0xFFE00000, 0x9BC00000), (0xFFE00000, 0xAA000000), (0xFFE00000, 0xAB000000),
    (0xFFE00000, 0xCA000000), (0xFFE00000, 0xCB000000), (0xFFE00000, 0xEA000000), (0xFFE00000, 0xEB000000),
    (0xFFE00000, 0xD3400000), (0xFFE00000, 0xD3600000), (0xFFE00000, 0xD6000000), (0xFFE00000, 0xFFE00000),
    (0xFFC00000, 0x91000000), (0xFFC00000, 0x92000000), (0xFFC00000, 0xB1000000), (0xFFC00000, 0xB2000000),
    (0xFFC00000, 0xD1000000), (0xFFC00000, 0xD2000000), (0xFFC00000, 0xF1000000), (0xFFC00000, 0xF2000000),
    (0xFFE00000, 0x38000000), (0xFFE00000, 0x38400000), (0xFFE00000, 0x78000000), (0xFFE00000, 0x78400000),
    (0xFFE00000, 0xB8000000), (0xFFE00000, 0xB8800000), (0xFFE00000, 0xC8000000), (0xFFE00000, 0xC8400000),
    (0xFFE00000, 0xF8000000), (0xFFE00000, 0xF8400000), (0xFC000000, 0x14000000), (0xFC000000, 0x94000000),
    (0xFF000000, 0x54000000), (0xFF000000, 0xB4000000), (0xFF000000, 0xB5000000), (0xFF800000, 0xD2800000),
    (0xFF800000, 0xF2800000)
    ] : List (IWord × IWord)).all (fun r => (r.2 ||| ~~~r.1) &&& r.1 == r.2) = true ∧
    (0x9AC00800 : IWord).extractLsb' 10 6 = 2#6 ∧ (0x9AC00C00 : IWord).extractLsb' 10 6 = 3#6 := by decide

theorem witness_ImmediateOperations :
    (-2048 : Word) = (0x800#12).signExtend 64 ∧ (2047 : Word) = (0x7FF#12).signExtend 64 := by decide

/-- The six disjuncts, with a discarded result. -/
theorem witness_FlagSettersComputeTheirTwinsResult :
    let s := withRegs (tiny .sequential []) [(1, 5), (2, 10)]
    let clear : Flags := ⟨false, false, false, false⟩
    ((15 : Word), clear) = (s.reg 1 + s.reg 2, flagsAdd (s.reg 1) (s.reg 2)) ∧
    ((-5 : Word), (⟨false, true, true, false⟩ : Flags)) = (s.reg 1 - s.reg 2, flagsSub (s.reg 1) (s.reg 2)) ∧
    ((0 : Word), (⟨true, false, false, false⟩ : Flags)) = (s.reg 1 &&& s.reg 2, flagsAnd (s.reg 1) (s.reg 2)) ∧
    ((0 : Word), (⟨true, false, true, false⟩ : Flags)) = (s.reg 1 + -5, flagsAdd (s.reg 1) (-5)) ∧
    ((10 : Word), (⟨false, false, true, false⟩ : Flags)) = (s.reg 1 - -5, flagsSub (s.reg 1) (-5)) ∧
    ((1 : Word), clear) = (s.reg 1 &&& -5, flagsAnd (s.reg 1) (-5)) ∧ (31 : RegIdx) = zeroReg ∧ (3 : RegIdx) ≠ zeroReg := by
  decide

theorem witness_DivisionDefined :
    let s := withRegs (tiny .sequential []) [(1, 0x8000000000000000), (2, -1), (3, 0), (4, 2)]
    s.reg 3 = 0 ∧ s.reg 31 = 0 ∧ s.reg 2 ≠ 0 ∧ ((s.reg 1).toInt = -2 ^ 63 ∧ (s.reg 2).toInt = -1) ∧
    s.reg 4 ≠ 0 ∧ ¬ ((s.reg 1).toInt = -2 ^ 63 ∧ (s.reg 4).toInt = -1) := by decide

/-- The hypothesis of `ConditionalBranch` on `taken`, as a truth value. -/
def taken (cond : BitVec 5) (f : Flags) : Bool :=
  decide ((cond = 0 ∧ f.z = true) ∨ (cond = 1 ∧ f.z = false) ∨ (cond = 10 ∧ f.n = f.v) ∨ (cond = 11 ∧ f.n ≠ f.v) ∨
    (cond = 12 ∧ f.z = false ∧ f.n = f.v) ∨ (cond = 13 ∧ ¬ (f.z = false ∧ f.n = f.v)))

/-- Each condition, true and false, and a code with no case. -/
theorem witness_ConditionalBranch :
    let eq : Flags := ⟨true, false, false, false⟩
    let lt : Flags := ⟨false, true, true, false⟩
    let gt : Flags := ⟨false, true, false, true⟩
    (taken 0 eq ∧ ¬ taken 0 lt) ∧ (taken 1 lt ∧ ¬ taken 1 eq) ∧ (taken 10 gt ∧ ¬ taken 10 lt) ∧ (taken 11 lt ∧ ¬ taken 11 eq) ∧
    (taken 12 gt ∧ ¬ taken 12 eq) ∧ (taken 13 lt ∧ taken 13 eq ∧ ¬ taken 13 gt) ∧ ¬ taken 2 eq ∧ ¬ taken 31 lt := by decide

/-- In range up to the last byte and out of range by one, for each size, with an extreme displacement. -/
theorem witness_StoresAndLoads :
    let s := withRegs (tiny .sequential []) [(6, 264), (7, 265)]
    (-256 : Word) = (0x100#9).signExtend 64 ∧ Memory.wf s.dmem ∧
    (∀ n ∈ [1, 2, 4, 8], (effectiveAddr (s.reg 6) (-256)).toNat + n ≤ s.params.dmemBytes) ∧
    (effectiveAddr (s.reg 6) (-256)).toNat + 8 = s.params.dmemBytes ∧
    (effectiveAddr (s.reg 7) (-256)).toNat + 8 = s.params.dmemBytes + 1 ∧
    (∀ n ∈ [1, 2, 4], (effectiveAddr (s.reg 31) (BitVec.ofNat 64 (16 - n))).toNat + n = s.params.dmemBytes ∧
      s.params.dmemBytes < (effectiveAddr (s.reg 31) (BitVec.ofNat 64 (17 - n))).toNat + n) := by decide

theorem witness_LoadsReadBigEndianBytes :
    let s := loadStart 0xF84000C7 0
    (0 : Word) = (0#9).signExtend 64 ∧ 0 = (effectiveAddr (s.reg 6) 0).toNat ∧
    ∀ k, (fun j => s.dmem.read (0 + j)) k = s.dmem.read (0 + k) := ⟨by decide, by decide, fun _ => rfl⟩

/-- All five pairs, in range up to the last byte, base and displacement different in the load. -/
theorem witness_StoreThenLoadReturnsTheLowBits :
    let s := withRegs (tiny .sequential []) [(5, -1), (6, 8)]
    Memory.wf s.dmem ∧ effectiveAddr (s.reg 6) 0 = effectiveAddr (s.reg 31) 8 ∧
    ∀ n ∈ [1, 2, 4, 8], (effectiveAddr (s.reg 6) 0).toNat + n ≤ s.params.dmemBytes := by decide

theorem witness_CanonicalMemoriesThatReadAlikeAreEqual :
    Memory.wf (Memory.write (Memory.write [] 3 7) 1 9) ∧ Memory.wf (Memory.write (Memory.write [] 1 9) 3 7) ∧
    ∀ a, Memory.read (Memory.write (Memory.write [] 3 7) 1 9) a = Memory.read (Memory.write (Memory.write [] 1 9) 3 7) a :=
  ⟨by decide, by decide, fun _ => rfl⟩

theorem witness_UnrecognizedWordIsANoOperation :
    let s := tiny .sequential [0x12345678]
    s.params.mode = .sequential ∧ s.atBoundary = true ∧ s.halted = false ∧ imemRead s.imem s.pc = some 0x12345678 ∧
    decode 0x12345678 = .error .noOpcodeMatch ∧ decode 0x9AC00000 = .error .divideShamt :=
  ⟨rfl, rfl, rfl, rfl, rfl, rfl⟩

/-- Index 0 and the first index past the program. -/
theorem witness_InvalidFetchFaultsAtExecute :
    let s := tiny .sequential []
    let z := { s with pc := 0 }
    (s.params.mode = .sequential ∧ s.atBoundary = true ∧ s.halted = false ∧ s.imem.length < s.pc.toNat) ∧
    (z.params.mode = .sequential ∧ z.atBoundary = true ∧ z.halted = false ∧ z.pc = 0) := by decide

theorem witness_FlagsAreReadOnlyByConditionalBranch :
    (∀ cond disp, Instr.exit ≠ .bCond cond disp) ∧
    (let f : Flags := ⟨true, false, true, false⟩
     let s : State := { tiny .sequential [] with flags := ⟨true, false, false, false⟩ }
     f.z = s.flags.z ∧ f.n = s.flags.n ∧ f.v = s.flags.v) :=
  ⟨fun _ _ => Instr.noConfusion, by decide⟩

/-- An instruction of each class completes in Execute. -/
theorem witness_ExecuteEffectsMatchTheInstructionsClass :
    let s := tiny .sequential []
    ([.add 1 2 3, .stur 1 2 0, .ldur 1 2 0, .b 0, .bl 0, .br 1, .cbz 1 0, .cbnz 1 0, .bCond 1 0, .movk 1 2 3, .exit] : List Instr).all
      (fun i => match executeInstr i (s.loadOperands (.instr i) 1) s with
        | some (.done _) => true
        | some (.raises _ _) => false
        | none => false) = true := by decide

theorem witness_OnlyTheReadRegistersMatter :
    let s := tiny .sequential []
    let regs : Vector Word 31 := (s.setReg 3 7).regs
    s.fault = none ∧
    ∀ r, readsN (.add 3 1 2) = some r ∨ readsM (.add 3 1 2) = some r ∨ readsT (.add 3 1 2) = some r →
      s.reg r = ({ s with regs := regs } : State).reg r := by decide

theorem witness_ZeroRegisterReadsZeroAndDiscardsWrites : (30 : RegIdx) ≠ 31 ∧ (0 : RegIdx) ≠ 31 := by decide

theorem witness_ResetValues :
    let t := withRegs (tiny .pipelined [0xFFE00000]) [(1, 5)]
    t.params = ⟨.pipelined, .full, .belowFlush, 16⟩ ∧ t.imem = [0xFFE00000] ∧ t.assertReset [] = tiny .pipelined [0xFFE00000] := by decide

theorem witness_SequentialStepRunsTheDecodedInstruction :
    let s := tiny .sequential [0x8B020023]
    s.params.mode = .sequential ∧ s.atBoundary = true ∧ s.halted = false ∧ imemRead s.imem s.pc = some 0x8B020023 ∧
    decode 0x8B020023 = .ok (.add 3 1 2) := ⟨rfl, rfl, rfl, rfl, rfl⟩

theorem witness_LoadedWordRunsFirst : decodeTableWord 32 0xFFFFFFFF = some .exit := by decide

/-- Both clauses of the outcome: an instruction that completes and one that faults. -/
theorem witness_FourStageCyclesAreOneInstruction :
    let s := tiny .sequential [0x8B020023]
    let z := tiny .sequential [0x9AC20823]
    s.atBoundary = true ∧ s.halted = false ∧ z.atBoundary = true ∧ z.halted = false ∧
    (next? s.seqInstruction).map (·.fault.isSome) = some false ∧ (next? z.seqInstruction).map (·.fault.isSome) = some true := by
  decide

/-! ### States of pipelined mode: E, D, F and W filled by an override -/

/-- The record of a word. -/
def recordOf (w : IWord) : Record := decodeFetched (some w)

/-- A pipelined core with the program `imem` whose E buffer holds the word at index 1 and D the one at index 2. -/
def inFlight (imem : List IWord) (w1 w2 : IWord) (l : List (RegIdx × Word)) : State :=
  let s := withRegs (tiny .pipelined imem) l
  { s with
    pc := 3
    executeBuf := some (s.loadOperands (recordOf w1) 1)
    decodeBuf := some { ipc := 2, word := some w2, record := none, fwdN := none, fwdM := none, fwdT := none } }

/-- A pipelined core after a stall of the word at index 2 behind the one at index 1. -/
def stalled (imem : List IWord) (w1 w2 w3 : IWord) (taken : Bool) : State :=
  let s := tiny .pipelined imem
  { s with
    pc := 4
    fetchBuf := some ⟨3, some w3⟩
    decodeBuf := some { ipc := 2, word := some w2, record := some (recordOf w2), fwdN := none, fwdM := none, fwdT := none }
    writebackBuf := some { s.loadOperands (recordOf w1) 1 with wb := some ⟨1, 5⟩ }
    hzN := true
    branchTaken := taken }

/-- What the Execute step of the E buffer answers: an effect (and the target it takes), or a fault. -/
def executes? (s : State) : Option (Option (Bool × Option Word)) :=
  match s.executeBuf with
  | none => none
  | some e => match executeRecord e.record e s with
    | none => none
    | some (.raises _ _) => some none
    | some (.done eff) => some (some (eff.ended, match eff.branch with
      | .taken target => some target
      | .notTaken _ => none
      | .notBranch => none))

theorem witness_PipelinedCycleExecutesTheInstructionInE :
    let s := inFlight [0x91001401, 0xFFE00000] 0x91001401 0xFFE00000 []
    s.params.mode = .pipelined ∧ s.halted = false ∧ s.executeBuf.isSome = true ∧ executes? s = some (some (false, none)) := by
  decide

theorem witness_PipelinedFaultIsPrecise :
    let s := inFlight [0x9AC20823, 0xFFE00000] 0x9AC20823 0xFFE00000 [(1, 7)]
    s.params.mode = .pipelined ∧ s.halted = false ∧ s.executeBuf.isSome = true ∧ executes? s = some none := by decide

/-- W empty, W without a request, W with one. -/
theorem witness_RegistersChangeOnlyByWriteback :
    let s := inFlight [0x91001401, 0xFFE00000] 0x91001401 0xFFE00000 []
    let w := stalled [0x91001401, 0x91000422, 0xFFE00000] 0x91001401 0x91000422 0xFFE00000 false
    let v := { w with writebackBuf := some (w.loadOperands (recordOf 0xFFE00000) 1) }
    (s.halted = false ∧ s.writebackBuf = none ∧ (next? (step s)).isSome = true) ∧
    (w.halted = false ∧ (w.writebackBuf.bind (·.wb)) = some ⟨1, 5⟩ ∧ (next? (step w)).isSome = true) ∧
    (v.halted = false ∧ v.writebackBuf.isSome = true ∧ (v.writebackBuf.bind (·.wb)) = none ∧ (next? (step v)).isSome = true) := by
  decide

theorem witness_BubbleExecutesNothing :
    let s := tiny .pipelined []
    s.params.mode = .pipelined ∧ s.halted = false ∧ s.executeBuf = none := by decide

/-- Bubble, and a dependency on each path, ADDI then ADD, MOVZ then MOVK. -/
theorem witness_DependenciesUnderFullScope :
    let s := inFlight [] 0x91002802 0x8B020023 []
    let m := inFlight [] 0xD2A24681 0xF297DDE1 []
    s.params.hazardScope = .full ∧ s.decodeBuf.isSome = true ∧ s.executeBuf.isSome = true ∧ s.raw = ⟨false, true, false⟩ ∧
    m.raw = ⟨false, false, true⟩ ∧ (tiny .pipelined []).decodeBuf = none := by decide

theorem witness_DependenciesUnderLiteralScope :
    let f := inFlight [] 0x91002802 0x8B020023 []
    let s := { f with params := { f.params with hazardScope := .literal } }
    s.params.hazardScope = .literal ∧ s.decodeBuf.isSome = true ∧ s.executeBuf.isSome = true ∧ s.raw = ⟨false, false, false⟩ := by
  decide

/-- The four outcomes: a dependency on path n or m; a taken branch; a dependency on path t; none of these. -/
theorem witness_HazardStepFollowsThePriority :
    let stall := inFlight [] 0x91002802 0x8B020023 []
    let flush := { inFlight [] 0x14000002 0x8B020023 [] with branchTaken := true }
    let stallT := inFlight [] 0xD2A24681 0xF297DDE1 []
    let idle := inFlight [] 0x91002802 0xFFE00000 []
    stall.raw.m = true ∧
    (flush.raw.n = false ∧ flush.raw.m = false ∧ flush.branchTaken = true) ∧
    (stallT.raw.n = false ∧ stallT.raw.m = false ∧ stallT.branchTaken = false ∧ stallT.raw.t = true) ∧
    (idle.raw.n = false ∧ idle.raw.m = false ∧ idle.branchTaken = false ∧ idle.raw.t = false) := by decide

/-- No hazard flag; a flag with W empty, with a discarded request, with a load, and with a request that is forwarded. -/
theorem witness_ForwardingAndResolution :
    let f := stalled [] 0x91001401 0x91000422 0xFFE00000 false
    let e := f.loadOperands (recordOf 0xF84080C7) 1
    (tiny .pipelined []).anyHazard = false ∧ f.anyHazard = true ∧ f.decodeBuf.isSome = true ∧
    (f.writebackBuf.bind (·.wb)) = some ⟨1, 5⟩ ∧ (1 : RegIdx) ≠ 31 ∧ Record.format (recordOf 0x91001401) ≠ some .D ∧
    ({ f with writebackBuf := none } : State).anyHazard = true ∧
    ({ f with writebackBuf := some { e with wb := some ⟨31, 5⟩ } } : State).anyHazard = true ∧ Record.format e.record = some .D := by
  decide

/-- A stall with and without a pending flush. -/
theorem witness_StallLastsOneCycle :
    let s := stalled [] 0x91001401 0x91000422 0xFFE00000 false
    let b := stalled [] 0x94000001 0x91000422 0xFFE00000 true
    (s.params.mode = .pipelined ∧ s.halted = false ∧ s.anyHazard = true ∧ s.executeBuf = none ∧ s.decodeBuf.isSome = true ∧
      s.branchTaken = false) ∧
    (b.params.mode = .pipelined ∧ b.halted = false ∧ b.anyHazard = true ∧ b.executeBuf = none ∧ b.decodeBuf.isSome = true ∧
      b.branchTaken = true) := by decide

/-- The same core with the other place of path t in the hazard step's order (log entry 20). -/
def aboveFlush (s : State) : State := { s with params := { s.params with pathTPriority := .aboveFlush } }

/-- BL before CBZ X30 flushes at once by R305 and R309, stalls first by R318; BL before ADDI X1, X30 stalls by all. -/
theorem test_bl_then_reader_of_the_link_register :
    let outcome := fun (s : State) => (next? s.frontHalf.executeStep).map (·.hazardOutcome)
    let cbz := inFlight [] 0x94000001 0xB400005E []
    let addi := inFlight [] 0x94000001 0x910003C1 []
    outcome cbz = some .flush ∧ outcome (aboveFlush cbz) = some .stallT ∧
    outcome addi = some (.stall true false false) ∧ outcome (aboveFlush addi) = some (.stall true false false) := by decide

/-- B before an independent ADDI; BL before CBZ X30 under both places of path t; BL before ADDI X1, X30. -/
theorem witness_TakenBranchFlushesTwoInstructions :
    let s := inFlight [0x14000002, 0x910004A5] 0x14000002 0x910004A5 []
    let c := inFlight [] 0x94000001 0xB400005E []
    let n := inFlight [] 0x94000001 0x910003C1 []
    (s.params.mode = .pipelined ∧ s.halted = false ∧ s.executeBuf.isSome = true ∧ executes? s = some (some (false, some 4)) ∧
      s.frontHalf.raw = ⟨false, false, false⟩) ∧
    (c.params.mode = .pipelined ∧ c.halted = false ∧ c.executeBuf.isSome = true ∧ executes? c = some (some (false, some 3)) ∧
      c.frontHalf.raw = ⟨false, false, true⟩ ∧ c.params.pathTPriority = .belowFlush) ∧
    ((aboveFlush c).halted = false ∧ executes? (aboveFlush c) = some (some (false, some 3)) ∧
      (aboveFlush c).frontHalf.raw = ⟨false, false, true⟩ ∧ (aboveFlush c).params.pathTPriority = .aboveFlush) ∧
    (n.halted = false ∧ executes? n = some (some (false, some 3)) ∧ n.frontHalf.raw = ⟨true, false, false⟩) := by decide

/-- An instruction in E and one in D, no stall. -/
theorem witness_PipeInv_inFlight : PipeInv (inFlight [0x91001401, 0xFFE00000] 0x91001401 0xFFE00000 []) where
  execute := fun e h => by cases h; exact ⟨rfl, rfl, rfl, rfl, rfl⟩
  decode := fun d h => by cases h; exact ⟨rfl, (fun _ h => by cases h), rfl, rfl, rfl⟩
  flushed := fun _ => rfl
  front := fun _ d h => by cases h; rfl
  back := fun _ e h => by cases h; exact ⟨_, rfl, rfl⟩
  heldExecute := fun h => by cases h
  held := fun h => by cases h

/-- A held instruction in D. -/
theorem witness_PipeInv_stalled :
    PipeInv (stalled [0x91001401, 0x91000422, 0xFFE00000] 0x91001401 0x91000422 0xFFE00000 false) where
  execute := fun e h => by cases h
  decode := fun d h => by cases h; exact ⟨rfl, (fun _ h => by cases h; rfl), rfl, rfl, rfl⟩
  flushed := fun h => by cases h
  front := fun h => by cases h
  back := fun h => by cases h
  heldExecute := fun _ => rfl
  held := fun _ => ⟨_, _, rfl, rfl, rfl, fun _ => ⟨rfl, rfl⟩⟩

theorem witness_PcAtExecuteIsThreeAhead :
    let s := inFlight [0x91001401, 0xFFE00000] 0x91001401 0xFFE00000 []
    PipeInv s ∧ s.executeBuf.isSome = true := ⟨witness_PipeInv_inFlight, rfl⟩

/-- Both clauses, with an instruction in E and with a bubble. -/
theorem witness_PipelinedCycleSimulatesSequentialStep :
    let s := inFlight [0x91001401, 0xFFE00000] 0x91001401 0xFFE00000 []
    let b := stalled [0x91001401, 0x91000422, 0xFFE00000] 0x91001401 0x91000422 0xFFE00000 false
    (PipeInv s ∧ s.params.mode = .pipelined ∧ s.params.hazardScope = .full ∧ s.halted = false ∧ (next? (step s)).isSome = true ∧
      s.executeBuf ≠ none) ∧
    (PipeInv b ∧ b.params.mode = .pipelined ∧ b.params.hazardScope = .full ∧ b.halted = false ∧ (next? (step b)).isSome = true ∧
      b.executeBuf = none) :=
  ⟨⟨witness_PipeInv_inFlight, by decide⟩, ⟨witness_PipeInv_stalled, by decide⟩⟩

/-- A cycle with a fault and one without. -/
theorem witness_OneHazardEventPerCycle :
    let s := inFlight [0x91001401, 0xFFE00000] 0x91001401 0xFFE00000 []
    let z := inFlight [0x9AC20823, 0xFFE00000] 0x9AC20823 0xFFE00000 []
    s.params.mode = .pipelined ∧ s.halted = false ∧ (next? (step s)).map (·.fault.isSome) = some false ∧
    z.params.mode = .pipelined ∧ z.halted = false ∧ (next? (step z)).map (·.fault.isSome) = some true := by decide

/-- After a fault; after EXIT in each mode. -/
theorem witness_HaltedCoreTakesNoStep :
    ((tiny .sequential []).takeFault .fetchOutOfRange 1 0).fault.isSome = true ∧
    ({ tiny .pipelined [] with programEnded := true } : State).params.mode = .pipelined ∧
    ({ tiny .sequential [] with programEnded := true } : State).atBoundary = true := by decide

/-- Halted, pipelined, sequential with and without a fault. -/
theorem witness_CycleCountIncrements :
    let h : State := { tiny .sequential [] with programEnded := true }
    (h.halted = true ∧ h.atBoundary = true ∧ (next? (step h)).isSome = true) ∧
    ((tiny .pipelined []).halted = false ∧ (next? (step (tiny .pipelined []))).isSome = true) ∧
    ((tiny .sequential [0xFFE00000]).atBoundary = true ∧
      (next? (step (tiny .sequential [0xFFE00000]))).map (·.fault.isSome) = some false) ∧
    (next? (step (tiny .sequential []))).map (·.fault.isSome) = some true := by decide

/-- One completed instruction, then EXIT, then a fault in its place. -/
theorem witness_SequentialRunCycleCount :
    let s := tiny .sequential [0x91001401, 0xFFE00000]
    let z := tiny .sequential [0x91001401]
    (next? (core.run 1 s)).map (·.halted) = some false ∧ (next? (core.run 2 s)).map (·.programEnded) = some true ∧
    (next? (core.run 1 z)).map (·.halted) = some false ∧ (next? (core.run 2 z)).map (·.fault.isSome) = some true := by decide

theorem witness_StepKeepsProgramAndParameters :
    (next? (step (tiny .sequential [0xFFE00000]))).isSome = true ∧ (next? (step (tiny .pipelined [0xFFE00000]))).isSome = true := by
  decide

/-- The invariant holds of a reset core of either mode, and its step answers. -/
theorem witness_StepKeepsTheStateInvariant : Inv (tiny .sequential [0xFFE00000]) ∧ (next? (step (tiny .sequential [0xFFE00000]))).isSome = true :=
  ⟨{ params := by decide
     memory := by decide
     inMemory := fun _ h => by cases h
     operands := fun _ h => by cases h
     latched := fun _ h => by cases h
     oneEnd := fun h => by cases h
     sequential := fun _ => ⟨(fun h => by cases h), (fun h => by cases h), rfl, rfl, (fun h => by cases h)⟩ }, by decide⟩

theorem witness_StateInvariantHoldsAtReset :
    (⟨.pipelined, .literal, .belowFlush, 2 ^ 64⟩ : Params).wf ∧ Memory.wf [(3, 7)] ∧
    ∀ c ∈ ([(3, 7)] : Memory), c.1 < (⟨.pipelined, .literal, .belowFlush, 2 ^ 64⟩ : Params).dmemBytes := by decide

/-- A program whose run ends in both modes: EXIT. -/
theorem witness_PipelinedAndSequentialRunsAgree :
    (next? (core.run 1 (tiny .sequential [0xFFE00000]))).map (·.halted) = some true ∧
    (next? (core.run 3 (tiny .pipelined [0xFFE00000]))).map (·.halted) = some true := by decide

end Sys2Proof.Tests
end

/-! SUPPORT. What the Execute rule of an instruction can answer (46_pipeline.md R280), said once: the shape of its effect,
and the part of the state that it reads. -/

namespace Sys2Proof.Machine

/-! ## The shape of a rule's answer -/

/-- What the rule of instruction `i`, executed at index `ipc` in state `s`, can answer. -/
inductive RuleAnswer (s : State) (ipc : Word) (i : Instr) : Executed → Prop where
  | write (rd : RegIdx) (v : Word) (dest : destOf i = some rd) : RuleAnswer s ipc i (.done (Effect.write rd v))
  | writeFlags (rd : RegIdx) (v : Word) (f : Flags) (dest : destOf i = some rd) (sets : setsFlags i) :
      RuleAnswer s ipc i (.done (Effect.writeFlags rd v f))
  | load (rt : RegIdx) (v : Word) (a : Access) (dest : destOf i = some rt) (kind : a.kind = .load)
      (fits : a.addr.toNat + a.size.bytes ≤ s.params.dmemBytes) :
      RuleAnswer s ipc i (.done { wb := some ⟨rt, v⟩, access := some a })
  | store (a : Access) (dest : destOf i = none) (kind : a.kind = .store)
      (fits : a.addr.toNat + a.size.bytes ≤ s.params.dmemBytes) :
      RuleAnswer s ipc i (.done { access := some a })
  | jump (b : BranchOutcome) (dest : destOf i = none) : RuleAnswer s ipc i (.done (Effect.jump b))
  | jumpClearing (cond : BitVec 5) (disp : Word) (isBCond : i = .bCond cond disp) :
      RuleAnswer s ipc i (.done { flags := some Flags.clear, branch := .taken (branchTarget ipc disp) })
  | link (disp : Word) (isBl : i = .bl disp) :
      RuleAnswer s ipc i (.done { wb := some ⟨linkReg, ipc + 1⟩, branch := .taken (branchTarget ipc disp) })
  | endRun (isExit : i = .exit) : RuleAnswer s ipc i (.done { ended := true })
  | raises (c : Fault) (info : Word) : RuleAnswer s ipc i (.raises c info)

/-- What holds of a rule's answer for every value of path n holds of the answer of a buffer that has one. -/
theorem ExecBuf.of_withN {P : Executed → Prop} {e : ExecBuf} {rule : Word → Executed} {x : Executed}
    (h : e.withN rule = some x) (hr : ∀ a, P (rule a)) : P x := by
  unfold ExecBuf.withN at h
  split at h
  · cases h; exact hr _
  · cases h

/-- The same for path t. -/
theorem ExecBuf.of_withT {P : Executed → Prop} {e : ExecBuf} {rule : Word → Executed} {x : Executed}
    (h : e.withT rule = some x) (hr : ∀ a, P (rule a)) : P x := by
  unfold ExecBuf.withT at h
  split at h
  · cases h; exact hr _
  · cases h

/-- The same for paths n and m. -/
theorem ExecBuf.of_withNM {P : Executed → Prop} {e : ExecBuf} {rule : Word → Word → Executed} {x : Executed}
    (h : e.withNM rule = some x) (hr : ∀ a b, P (rule a b)) : P x := by
  unfold ExecBuf.withNM at h
  split at h
  · cases h; exact hr _ _
  · cases h

/-- The same for paths n and t. -/
theorem ExecBuf.of_withNT {P : Executed → Prop} {e : ExecBuf} {rule : Word → Word → Executed} {x : Executed}
    (h : e.withNT rule = some x) (hr : ∀ a b, P (rule a b)) : P x := by
  unfold ExecBuf.withNT at h
  split at h
  · cases h; exact hr _ _
  · cases h

section
variable {s : State} {ipc : Word} {i : Instr}

theorem ruleAnswer_loadRule {size : Size} {ext : Word → Word} {rt : RegIdx} {disp vn : Word}
    (dest : destOf i = some rt) : RuleAnswer s ipc i (loadRule s size ext rt disp vn) := by
  rw [loadRule_eq]
  split
  · exact .load rt _ _ dest rfl ‹_›
  · exact .raises _ _

theorem ruleAnswer_storeRule {size : Size} {disp vn vt : Word} (dest : destOf i = none) :
    RuleAnswer s ipc i (storeRule s size disp vn vt) := by
  rw [storeRule_eq]
  split
  · exact .store _ dest rfl ‹_›
  · exact .raises _ _

theorem ruleAnswer_sdivRule {rd : RegIdx} {vn vm : Word} (dest : destOf i = some rd) :
    RuleAnswer s ipc i (sdivRule rd vn vm) := by
  unfold sdivRule
  split
  · exact .raises _ _
  · exact .write rd _ dest

theorem ruleAnswer_udivRule {rd : RegIdx} {vn vm : Word} (dest : destOf i = some rd) :
    RuleAnswer s ipc i (udivRule rd vn vm) := by
  unfold udivRule
  split
  · exact .raises _ _
  · exact .write rd _ dest

theorem ruleAnswer_bCondRule {cond : BitVec 5} {disp : Word} {f : Flags} :
    RuleAnswer s ipc (.bCond cond disp) (bCondRule cond disp ipc f) := by
  unfold bCondRule
  split
  · split
    · exact .jumpClearing cond disp rfl
    · exact .jump _ rfl
  · exact .jump _ rfl

end

/-- Every answer of an instruction's rule has one of the shapes of `RuleAnswer`. -/
theorem ruleAnswer_of_executeInstr {i : Instr} {e : ExecBuf} {s : State} {x : Executed}
    (h : executeInstr i e s = some x) : RuleAnswer s e.ipc i x := by
  cases i with
  | and rd rn rm | add rd rn rm | orr rd rn rm | eor rd rn rm | sub rd rn rm | mul rd rn rm
  | smulh rd rn rm | umulh rd rn rm => exact ExecBuf.of_withNM h fun _ _ => .write rd _ rfl
  | addi rd rn imm | andi rd rn imm | orri rd rn imm | subi rd rn imm | eori rd rn imm
  | lsl rd rn shamt | lsr rd rn shamt => exact ExecBuf.of_withN h fun _ => .write rd _ rfl
  | adds rd rn rm | ands rd rn rm | subs rd rn rm =>
      exact ExecBuf.of_withNM h fun _ _ => .writeFlags rd _ _ rfl trivial
  | addis rd rn imm | subis rd rn imm | andis rd rn imm =>
      exact ExecBuf.of_withN h fun _ => .writeFlags rd _ _ rfl trivial
  | sdiv rd rn rm => exact ExecBuf.of_withNM h fun _ _ => ruleAnswer_sdivRule rfl
  | udiv rd rn rm => exact ExecBuf.of_withNM h fun _ _ => ruleAnswer_udivRule rfl
  | movz rd imm slot => cases h; exact .write rd _ rfl
  | movk rd imm slot => exact ExecBuf.of_withT h fun _ => .write rd _ rfl
  | ldurb rt rn disp | ldurh rt rn disp | ldursw rt rn disp | ldur rt rn disp | ldxr rt rn disp =>
      exact ExecBuf.of_withN h fun _ => ruleAnswer_loadRule rfl
  | sturb rt rn disp | sturh rt rn disp | sturw rt rn disp | stur rt rn disp | stxr rt rn disp =>
      exact ExecBuf.of_withNT h fun _ _ => ruleAnswer_storeRule rfl
  | b disp => cases h; exact .jump _ rfl
  | br rn => exact ExecBuf.of_withN h fun _ => .jump _ rfl
  | cbz rt disp | cbnz rt disp => exact ExecBuf.of_withT h fun _ => .jump _ rfl
  | bCond cond disp => cases h; exact ruleAnswer_bCondRule
  | bl disp => cases h; exact .link disp rfl
  | exit => cases h; exact .endRun rfl

/-- A data access that Execute makes lies inside data memory (20_memory.md R68). -/
theorem executeRecord_access_fits {r : Record} {e : ExecBuf} {s : State} {eff : Effect} {a : Access}
    (h : executeRecord r e s = some (.done eff)) (ha : eff.access = some a) :
    a.addr.toNat + a.size.bytes ≤ s.params.dmemBytes := by
  cases r with
  | unrecognized => cases h; cases ha
  | invalidFetch => cases h
  | instr i =>
    cases ruleAnswer_of_executeInstr h with
    | load rt v b dest kind fits => cases ha; exact fits
    | store b dest kind fits => cases ha; exact fits
    | write | writeFlags | jump | jumpClearing | link | endRun => cases ha

/-- The flags that Execute writes: none, those of an S instruction, or zeros by a taken B.cond (10_state.md R28, R29). -/
theorem executeInstr_flags {i : Instr} {e : ExecBuf} {s : State} {eff : Effect}
    (h : executeInstr i e s = some (.done eff)) :
    eff.flags = none ∨ setsFlags i ∨
      ∃ cond disp, i = .bCond cond disp ∧ eff.flags = some Flags.clear ∧
        eff.branch = .taken (branchTarget e.ipc disp) := by
  cases ruleAnswer_of_executeInstr h with
  | writeFlags rd v f dest sets => exact .inr (.inl sets)
  | jumpClearing cond disp isBCond => exact .inr (.inr ⟨cond, disp, isBCond, rfl, rfl⟩)
  | write | load | store | jump | link | endRun => exact .inl rfl

/-! ## What a rule reads of the state -/

section
variable {s t : State} {size : Size} {disp vn : Word}

theorem loadRule_congr {ext : Word → Word} {rt : RegIdx} (hp : t.params = s.params) (hd : t.dmem = s.dmem) :
    loadRule t size ext rt disp vn = loadRule s size ext rt disp vn := by
  simp only [loadRule_eq, hp, hd]

theorem storeRule_congr {vt : Word} (hp : t.params = s.params) :
    storeRule t size disp vn vt = storeRule s size disp vn vt := by
  simp only [storeRule_eq, hp]

end

/-- No condition of B.cond reads `C` (10_state.md R28). -/
theorem Cond.holds_congr {f g : Flags} (hz : f.z = g.z) (hn : f.n = g.n) (hv : f.v = g.v) (k : Cond) :
    k.holds f = k.holds g := by
  cases k <;> simp only [Cond.holds, hz, hn, hv]

theorem bCondRule_congr {f g : Flags} (hz : f.z = g.z) (hn : f.n = g.n) (hv : f.v = g.v)
    (cond : BitVec 5) (disp ipc : Word) : bCondRule cond disp ipc f = bCondRule cond disp ipc g := by
  simp only [bCondRule, Cond.holds_congr hz hn hv]

/-- Beside the buffer, a rule reads the parameters, data memory and, B.cond's alone, the flags `Z`, `N` and `V`. -/
theorem executeInstr_congr {i : Instr} {s t : State} (e : ExecBuf) (hp : t.params = s.params) (hd : t.dmem = s.dmem)
    (hf : (∀ cond disp, i ≠ .bCond cond disp) ∨
      (t.flags.z = s.flags.z ∧ t.flags.n = s.flags.n ∧ t.flags.v = s.flags.v)) :
    executeInstr i e t = executeInstr i e s := by
  cases i with
  | bCond cond disp =>
    obtain hne | ⟨hz, hn, hv⟩ := hf
    · exact absurd rfl (hne cond disp)
    · simp only [executeInstr, bCondRule_congr hz hn hv]
  | ldurb | ldurh | ldursw | ldur | ldxr => exact congrArg e.withN (funext fun _ => loadRule_congr hp hd)
  | sturb | sturh | sturw | stur | stxr =>
    exact congrArg e.withNT (funext fun _ => funext fun _ => storeRule_congr hp)
  | _ => rfl

theorem executeRecord_congr {s t : State} (r : Record) (e : ExecBuf) (hp : t.params = s.params) (hd : t.dmem = s.dmem)
    (hf : t.flags = s.flags) : executeRecord r e t = executeRecord r e s := by
  cases r with
  | instr i => exact executeInstr_congr e hp hd (.inr (by simp [hf]))
  | unrecognized | invalidFetch => rfl

/-! ## The sequential meaning is the rule on the operands of the register file -/

/-- Every meaning runs the instruction's rule on the buffer that S3 loads (46_pipeline.md R272, R274). -/
theorem exec_eq_runRecord (i : Instr) (s : State) :
    ∃ x, executeInstr i (s.loadOperands (.instr i) s.pc) s = some x ∧
      exec i s = .next (s.runRecord (.instr i) x) := by
  cases i <;> exact ⟨_, rfl, rfl⟩

/-- An instruction of sequential mode runs the rule of the record at the PC. -/
theorem State.seqInstruction_eq_runRecord (s : State) :
    ∃ x, executeRecord s.nextRecord (s.loadOperands s.nextRecord s.pc) s = some x ∧
      s.seqInstruction = .next (s.runRecord s.nextRecord x) := by
  unfold State.seqInstruction
  cases s.nextRecord with
  | instr i => exact exec_eq_runRecord i s
  | unrecognized | invalidFetch => exact ⟨_, rfl, rfl⟩

end Sys2Proof.Machine

/-! SUPPORT. The flags (10_state.md R28, R29): what an instruction writes of them and who reads them. -/

namespace Sys2Proof.Machine

/-- The flags and PC after an instruction whose rule completed. -/
theorem State.flags_runRecord_done (s : State) (r : Record) (eff : Effect) :
    (s.runRecord r (.done eff)).flags = eff.flags.getD s.flags := by
  rw [State.runRecord_done]

theorem State.pc_runRecord_done (s : State) (r : Record) (eff : Effect) :
    (s.runRecord r (.done eff)).pc = eff.branch.pcAfter (s.pc + 1) := by
  rw [State.runRecord_done]

/-- Settles O29: the meaning runs the rule, and `executeInstr_flags` says which rules write the flags. -/
theorem onlyFlagSettersAndTakenBranchesChangeFlags : Obligations.OnlyFlagSettersAndTakenBranchesChangeFlags := by
  intro i s
  obtain ⟨x, hx, hexec⟩ := exec_eq_runRecord i s
  refine ⟨_, hexec, ?_⟩
  cases x with
  | raises c info => exact .inl (State.faults_runRecord_raises s _ c info).flags
  | done eff =>
    rw [State.flags_runRecord_done, State.pc_runRecord_done]
    obtain hnone | hsets | ⟨cond, disp, hi, hclear, htaken⟩ := executeInstr_flags hx
    · exact .inl (by rw [hnone]; rfl)
    · exact .inr (.inl hsets)
    · exact .inr (.inr ⟨cond, disp, hi, by rw [hclear]; rfl, by rw [htaken]; rfl⟩)

/-- An instruction run with other flags and the same answer of its rule differs at most in the flags. -/
theorem State.runRecord_with_flags (s : State) (f : Flags) (r : Record) (x : Executed) :
    ∃ g, ({ s with flags := f } : State).runRecord r x = { s.runRecord r x with flags := g } := by
  cases x with
  | raises c info => exact ⟨f, rfl⟩
  | done eff =>
    refine ⟨eff.flags.getD f, ?_⟩
    have hregs : (({ s with flags := f } : State).commit eff.wb).regs = (s.commit eff.wb).regs :=
      State.commit_regs_congr (s := { s with flags := f }) (t := s) rfl eff.wb
    rw [State.runRecord_done, State.runRecord_done, hregs]

/-- Settles O30: the rule answers alike (`executeInstr_congr`), so the two runs differ at most in the flags. -/
theorem flagsAreReadOnlyByConditionalBranch : Obligations.FlagsAreReadOnlyByConditionalBranch := by
  intro i s f hf
  obtain ⟨x, hx, hexec⟩ := exec_eq_runRecord i s
  obtain ⟨y, hy, hexec'⟩ := exec_eq_runRecord i { s with flags := f }
  have same : y = x := by
    have hcongr : executeInstr i (s.loadOperands (.instr i) s.pc) { s with flags := f } = some x :=
      (executeInstr_congr (s := s) (t := { s with flags := f }) _ rfl rfl hf).trans hx
    exact Option.some.inj (hy.symm.trans hcongr)
  obtain ⟨g, hg⟩ := s.runRecord_with_flags f (.instr i) x
  rw [same, hg] at hexec'
  exact ⟨_, _, hexec, hexec', fun _ => rfl, rfl, rfl, rfl, rfl⟩

end Sys2Proof.Machine

/-! SUPPORT. Register 31 and the state after reset (10_state.md R22, R45). -/

namespace Sys2Proof.Machine

theorem State.reg_zeroReg (s : State) : s.reg zeroReg = 0 := by
  simp [State.reg, zeroReg_toNat]

theorem State.setReg_zeroReg (s : State) (v : Word) : s.setReg zeroReg v = s := by
  simp [State.setReg, zeroReg_toNat]

/-- Settles O33. -/
theorem zeroRegisterReadsZeroAndDiscardsWrites : Obligations.ZeroRegisterReadsZeroAndDiscardsWrites := by
  intro s v
  refine ⟨s.reg_zeroReg, s.setReg_zeroReg v, fun r q (hr : r ≠ zeroReg) => ?_⟩
  rw [State.reg_setReg]
  simp only [hr, ne_eq, not_false_eq_true, and_true]

theorem State.reg_resetWith (params : Params) (imem : List IWord) (preload : Memory) (r : RegIdx) :
    (State.resetWith params imem preload).reg r = 0 := by
  simp [State.reg, State.resetWith]

/-- Asserting reset depends on nothing of the state but the parameters and the program (70_reset_and_hazards.md R360). -/
theorem State.assertReset_eq {t : State} {params : Params} {imem : List IWord} (hp : t.params = params)
    (hi : t.imem = imem) (preload : Memory) : t.assertReset preload = State.resetWith params imem preload := by
  rw [State.assertReset, hp, hi]

/-- Settles O34. -/
theorem resetValues : Obligations.ResetValues := by
  rintro params imem preload s rfl
  have unlisted : preload = [] → ∀ a, (State.resetWith params imem preload).dmem.read a = 0 := by
    rintro rfl a
    rfl
  exact ⟨State.reg_resetWith params imem preload, rfl, rfl, rfl, unlisted, rfl, rfl, rfl, rfl, rfl, rfl, rfl, rfl, rfl,
    rfl, rfl, rfl, rfl, fun _ hp hi => State.assertReset_eq hp hi preload⟩

/-- The reset state is idle. -/
theorem seqIdle_resetWith (params : Params) (imem : List IWord) (preload : Memory) :
    SeqIdle (State.resetWith params imem preload) where
  executeAlone _ := ⟨rfl, rfl⟩
  decodeAlone _ := rfl
  hazards := rfl
  branchTaken := rfl
  ended _ := ⟨rfl, rfl⟩

theorem inv_resetWith {params : Params} {preload : Memory} (imem : List IWord) (hp : params.wf) (hm : preload.wf)
    (hin : ∀ c ∈ preload, c.1 < params.dmemBytes) : Inv (State.resetWith params imem preload) where
  params := hp
  memory := hm
  inMemory := hin
  operands _ h := by cases h
  latched _ h := by cases h
  oneEnd h := by cases h
  sequential _ := seqIdle_resetWith params imem preload

/-- Settles O56: `State.reset` is one of the reset states. -/
theorem stateInvariantHoldsAtReset : Obligations.StateInvariantHoldsAtReset := by
  intro params imem preload hp hm hin
  have hreset : Inv State.reset := inv_resetWith [] (Nat.le_refl _) ⟨.nil, nofun⟩ nofun
  exact ⟨inv_resetWith imem hp hm hin, hreset⟩

/-- Settles O58: every buffer is empty and no flag is set. -/
theorem pipelineInvariantHoldsAtReset : Obligations.PipelineInvariantHoldsAtReset := by
  intro params imem preload
  exact
    { execute := fun _ h => by cases h
      decode := fun _ h => by cases h
      flushed := fun _ => rfl
      front := fun _ _ h => by cases h
      back := fun _ _ h => by cases h
      heldExecute := fun _ => rfl
      held := fun h => by cases h }

end Sys2Proof.Machine

/-! SUPPORT. The state invariant `Inv` and the operations of a step: each stage of sequential mode and each step of a
pipelined cycle keeps it. -/

namespace Sys2Proof.Machine

/-! ## Data memory stays inside `DMEM_BYTES` -/

/-- An access that fits adds no entry at or above the size of data memory (20_memory.md R64, R68). -/
theorem Memory.after_inside {m : Memory} {acc : Option Access} {n : Nat} (h : ∀ c ∈ m, c.1 < n)
    (fits : ∀ a, acc = some a → a.addr.toNat + a.size.bytes ≤ n) : ∀ c ∈ m.after acc, c.1 < n := by
  intro c hc
  match acc with
  | none => exact h c hc
  | some ⟨.load, _, _, _⟩ => exact h c hc
  | some ⟨.store, addr, size, value⟩ =>
    obtain hold | ⟨-, hlt⟩ := Memory.mem_writeBytes m addr.toNat size.bytes value size.bytes c hc
    · exact h c hold
    · exact Nat.lt_of_lt_of_le hlt (fits _ rfl)

/-! ## Operand values stand exactly where the record reads -/

theorem State.isSome_resolvePath (s : State) (path : Option RegIdx) (fwd : Option Word) :
    (s.resolvePath path fwd).isSome = path.isSome := by
  cases path <;> rfl

theorem State.operandsReady_loadOperands (s : State) (r : Record) (ipc : Word) : (s.loadOperands r ipc).OperandsReady :=
  ⟨s.isSome_resolvePath _ _, s.isSome_resolvePath _ _, s.isSome_resolvePath _ _⟩

theorem State.operandsReady_resolve (s : State) (d : DecodeBuf) : (s.resolve d).OperandsReady :=
  ⟨s.isSome_resolvePath _ _, s.isSome_resolvePath _ _, s.isSome_resolvePath _ _⟩

/-! ## Operations that move instructions between the buffers -/

/-- The invariant's clause about E. -/
def State.ExecuteReady (s : State) : Prop := ∀ e, s.executeBuf = some e → e.OperandsReady

/-- The invariant's clause about D. -/
def State.DecodeLatched (s : State) : Prop :=
  ∀ d, s.decodeBuf = some d → ∀ r, d.record = some r → r = decodeFetched d.word

theorem State.executeReady_of_none {s : State} (h : s.executeBuf = none) : s.ExecuteReady := fun e he => by
  rw [h] at he; cases he

theorem State.decodeLatched_of_none {s : State} (h : s.decodeBuf = none) : s.DecodeLatched := fun d hd => by
  rw [h] at hd; cases hd

/-- What the operations other than Execute leave alone. -/
structure KeepsResults (s t : State) : Prop where
  params : t.params = s.params
  dmem : t.dmem = s.dmem
  programEnded : t.programEnded = s.programEnded
  fault : t.fault = s.fault

/-- An operation that only moves instructions keeps the invariant if the buffers it leaves are well formed. -/
theorem Inv.of_keepsResults {s t : State} (h : Inv s) (k : KeepsResults s t) (he : t.ExecuteReady)
    (hd : t.DecodeLatched) (hs : t.params.mode = .sequential → SeqIdle t) : Inv t where
  params := by rw [k.params]; exact h.params
  memory := by rw [k.dmem]; exact h.memory
  inMemory := by rw [k.dmem, k.params]; exact h.inMemory
  operands := he
  latched := hd
  oneEnd := by rw [k.programEnded, k.fault]; exact h.oneEnd
  sequential := hs

/-- In pipelined mode nothing is asked of the fetch buffer, the hazard flags and the branch latch. -/
theorem Inv.of_keepsResults_pipelined {s t : State} (h : Inv s) (hm : s.params.mode = .pipelined)
    (k : KeepsResults s t) (he : t.ExecuteReady) (hd : t.DecodeLatched) : Inv t :=
  h.of_keepsResults k he hd fun hseq => by
    rw [k.params, hm] at hseq
    cases hseq

/-! ## Execute -/

/-- A running core that executes the instruction in E keeps the invariant, whatever the rule answers. -/
theorem Inv.executeWith {s : State} {e : ExecBuf} {x : Executed} (h : Inv s) (he : s.executeBuf = some e)
    (hx : executeRecord e.record e s = some x) (hrun : s.Running) : Inv (s.executeWith e x) := by
  obtain ⟨hended, hfault⟩ := hrun
  cases x with
  | raises c info =>
    exact
      { h with
        oneEnd := fun hend => by cases hended.symm.trans hend
        sequential := fun hm =>
          have idle := h.sequential hm
          { idle with } }
  | done eff =>
    exact
      { params := h.params
        memory := Memory.after_wf _ _ h.memory
        inMemory := Memory.after_inside h.inMemory fun _ ha => executeRecord_access_fits (s := s) hx ha
        operands := fun e' he' => by cases he'; exact h.operands e he
        latched := h.latched
        oneEnd := fun _ => hfault
        sequential := fun hm =>
          have idle := h.sequential hm
          have alone : s.decodeBuf = none ∧ s.fetchBuf = none := idle.executeAlone (by rw [he]; rfl)
          { idle with executeAlone := fun _ => alone, ended := fun _ => alone } }

/-! ## The stages of sequential mode -/

/-- What one cycle of sequential mode does: nothing in a stopped core, else the stage that the buffers ask for (R272). -/
inductive SeqStage (s : State) : State → Prop where
  | stopped : SeqStage s s
  | fetch (running : s.Running) (noExecute : s.executeBuf = none) (noDecode : s.decodeBuf = none) :
      SeqStage s s.seqFetch
  | decode (f : FetchBuf) (noExecute : s.executeBuf = none) (fetched : s.fetchBuf = some f) : SeqStage s s.seqDecode
  | execute (d : DecodeBuf) (x : Executed) (noFault : s.fault = none) (decoded : s.decodeBuf = some d)
      (answer : executeRecord d.decoded (s.loadOperands d.decoded d.ipc) s.seqLoad = some x) :
      SeqStage s (s.seqLoad.executeWith (s.loadOperands d.decoded d.ipc) x)
  | writeback (e : ExecBuf) (executed : s.executeBuf = some e) : SeqStage s s.seqWriteback

/-- S3 loads the D buffer into E. -/
theorem State.executeBuf_seqLoad {s : State} {d : DecodeBuf} (hd : s.decodeBuf = some d) :
    s.seqLoad.executeBuf = some (s.loadOperands d.decoded d.ipc) := by
  simp [State.seqLoad, hd]

/-- The applying half of S3 answers a next state only with the answer of the rule. -/
theorem State.seqApply_next {s t : State} {e : ExecBuf} (he : s.executeBuf = some e) (h : s.seqApply = .next t) :
    ∃ x, executeRecord e.record e s = some x ∧ t = s.executeWith e x := by
  simp only [State.seqApply, he] at h
  cases hx : executeRecord e.record e s with
  | none => rw [hx] at h; cases h
  | some x => rw [hx] at h; cases h; exact ⟨x, rfl, rfl⟩

/-- A core that is not stopped has no fault, and at an instruction boundary it is running. -/
theorem State.seqStopped_eq_false {s : State} (h : s.seqStopped = false) :
    s.fault = none ∧ (s.atBoundary = true → s.Running) := by
  simp only [State.seqStopped, Bool.or_eq_false_iff, Option.isSome_eq_false_iff, Option.isNone_iff_eq_none] at h
  obtain ⟨hfault, hended⟩ := h
  exact ⟨hfault, fun hb => ⟨by simpa [hb] using hended, hfault⟩⟩

/-- With F, D and E empty the core is at an instruction boundary (R272). -/
theorem State.atBoundary_of_empty {s : State} (he : s.executeBuf = none) (hd : s.decodeBuf = none)
    (hf : s.fetchBuf = none) : s.atBoundary = true := by
  simp [State.atBoundary, State.seqPhase, he, hd, hf]

/-- Every cycle of sequential mode that answers a next state is one of the stages. -/
theorem State.seqStage_of_seqCycle {s t : State} (h : s.seqCycle = .next t) : SeqStage s t := by
  unfold State.seqCycle at h
  cases hstop : s.seqStopped with
  | true => rw [hstop] at h; cases h; exact .stopped
  | false =>
    obtain ⟨noFault, running⟩ := State.seqStopped_eq_false hstop
    simp only [hstop, Bool.false_eq_true, if_false] at h
    cases he : s.executeBuf with
    | some e =>
      simp only [State.seqPhase, he] at h
      cases h
      exact .writeback e he
    | none =>
      cases hd : s.decodeBuf with
      | some d =>
        simp only [State.seqPhase, he, hd] at h
        obtain ⟨x, hx, rfl⟩ := State.seqApply_next (State.executeBuf_seqLoad hd) h
        exact .execute d x noFault hd hx
      | none =>
        cases hf : s.fetchBuf with
        | some f =>
          simp only [State.seqPhase, he, hd, hf] at h
          cases h
          exact .decode f he hf
        | none =>
          simp only [State.seqPhase, he, hd, hf] at h
          cases h
          exact .fetch (running (State.atBoundary_of_empty he hd hf)) he hd

/-- An operation that leaves F empty and D a bubble, and the hazard unit as it was, keeps the core idle. -/
theorem SeqIdle.of_alone {s t : State} (h : SeqIdle s) (hd : t.decodeBuf = none) (hf : t.fetchBuf = none)
    (hz : t.anyHazard = s.anyHazard) (hb : t.branchTaken = s.branchTaken) : SeqIdle t where
  executeAlone _ := ⟨hd, hf⟩
  decodeAlone _ := hf
  hazards := hz.trans h.hazards
  branchTaken := hb.trans h.branchTaken
  ended _ := ⟨hd, hf⟩

/-- While an instruction stands in F or D the run has not ended. -/
theorem SeqIdle.programEnded_eq_false {s : State} (h : SeqIdle s) (hp : s.decodeBuf ≠ none ∨ s.fetchBuf ≠ none) :
    s.programEnded = false := by
  refine Bool.eq_false_iff.mpr fun hended => ?_
  obtain ⟨hd, hf⟩ := h.ended hended
  obtain hne | hne := hp
  · exact hne hd
  · exact hne hf

theorem Inv.seqFetch {s : State} (h : Inv s) (hm : s.params.mode = .sequential) (hrun : s.Running)
    (he : s.executeBuf = none) (hd : s.decodeBuf = none) : Inv s.seqFetch := by
  have idle := h.sequential hm
  refine h.of_keepsResults ⟨rfl, rfl, rfl, rfl⟩ (State.executeReady_of_none he) (State.decodeLatched_of_none hd)
    fun _ => ?_
  exact
    { executeAlone := fun hsome => by rw [show s.seqFetch.executeBuf = none from he] at hsome; cases hsome
      decodeAlone := fun hsome => by rw [show s.seqFetch.decodeBuf = none from hd] at hsome; cases hsome
      hazards := idle.hazards
      branchTaken := idle.branchTaken
      ended := fun hended => by cases hrun.1.symm.trans hended }

/-- S2 latches the decoding of the fetched word. -/
theorem State.decodeLatched_seqDecode (s : State) : s.seqDecode.DecodeLatched := by
  intro d hd r hr
  obtain ⟨f, -, rfl⟩ := Option.map_eq_some_iff.mp hd
  exact (Option.some.inj hr).symm

theorem Inv.seqDecode {s : State} {f : FetchBuf} (h : Inv s) (hm : s.params.mode = .sequential)
    (he : s.executeBuf = none) (hf : s.fetchBuf = some f) : Inv s.seqDecode := by
  have idle := h.sequential hm
  have running : s.programEnded = false := idle.programEnded_eq_false (.inr (by simp [hf]))
  refine h.of_keepsResults ⟨rfl, rfl, rfl, rfl⟩ (State.executeReady_of_none he) s.decodeLatched_seqDecode fun _ => ?_
  exact
    { executeAlone := fun hsome => by rw [show s.seqDecode.executeBuf = none from he] at hsome; cases hsome
      decodeAlone := fun _ => rfl
      hazards := idle.hazards
      branchTaken := idle.branchTaken
      ended := fun hended => by cases running.symm.trans hended }

theorem State.executeReady_seqLoad (s : State) : s.seqLoad.ExecuteReady := by
  intro e he
  obtain ⟨d, -, rfl⟩ := Option.map_eq_some_iff.mp he
  exact s.operandsReady_loadOperands _ _

theorem Inv.seqLoad {s : State} {d : DecodeBuf} (h : Inv s) (hm : s.params.mode = .sequential)
    (hd : s.decodeBuf = some d) : Inv s.seqLoad := by
  have idle := h.sequential hm
  have hf : s.fetchBuf = none := idle.decodeAlone (by simp [hd])
  exact h.of_keepsResults ⟨rfl, rfl, rfl, rfl⟩ s.executeReady_seqLoad (State.decodeLatched_of_none rfl)
    fun _ => idle.of_alone rfl hf rfl rfl

theorem Inv.seqWriteback {s : State} {e : ExecBuf} (h : Inv s) (he : s.executeBuf = some e) : Inv s.seqWriteback := by
  refine h.of_keepsResults ⟨by simp, by simp, by simp, by simp⟩ (State.executeReady_of_none (by simp))
    (fun d hd => h.latched d (by simpa using hd)) fun hm => ?_
  have idle := h.sequential (by simpa using hm)
  obtain ⟨hd, hf⟩ := idle.executeAlone (by simp [he])
  exact idle.of_alone (by simpa using hd) (by simpa using hf) (by simp [State.anyHazard]) (by simp)

/-- Executing keeps the parameters of the run. -/
@[simp] theorem State.executeWith_params (s : State) (e : ExecBuf) (x : Executed) :
    (s.executeWith e x).params = s.params := by
  cases x <;> rfl

/-- A cycle of sequential mode keeps the invariant, and the mode. -/
theorem Inv.seqCycle {s t : State} (h : Inv s) (hm : s.params.mode = .sequential) (ht : s.seqCycle = .next t) :
    Inv t ∧ t.params.mode = .sequential := by
  cases State.seqStage_of_seqCycle ht with
  | stopped => exact ⟨h, hm⟩
  | fetch running noExecute noDecode => exact ⟨h.seqFetch hm running noExecute noDecode, hm⟩
  | decode f noExecute fetched => exact ⟨h.seqDecode hm noExecute fetched, hm⟩
  | execute d x noFault decoded answer =>
    have hended : s.programEnded = false := (h.sequential hm).programEnded_eq_false (.inl (by simp [decoded]))
    have loaded : Inv s.seqLoad := h.seqLoad hm decoded
    exact ⟨loaded.executeWith (State.executeBuf_seqLoad decoded) answer ⟨hended, noFault⟩,
      by rw [State.executeWith_params]; exact hm⟩
  | writeback e executed => exact ⟨h.seqWriteback executed, by simpa using hm⟩

theorem Inv.seqCycles {s t : State} {n : Nat} (h : Inv s) (hm : s.params.mode = .sequential)
    (ht : s.seqCycles n = .next t) : Inv t := by
  induction n generalizing s with
  | zero => cases ht; exact h
  | succ k ih =>
    unfold State.seqCycles at ht
    cases hc : s.seqCycle with
    | next u =>
      rw [hc] at ht
      obtain ⟨hu, hmu⟩ := h.seqCycle hm hc
      exact ih hu hmu ht
    | fault c => rw [hc] at ht; cases ht
    | refused c => rw [hc] at ht; cases ht

/-! ## A whole sequential instruction -/

theorem State.executeBuf_executeWith_done (s : State) (e : ExecBuf) (eff : Effect) :
    (s.executeWith e (.done eff)).executeBuf = some { e with wb := eff.wb } := rfl

theorem Inv.issue {s : State} (h : Inv s) (r : Record) : Inv (s.issue r) := by
  refine h.of_keepsResults ⟨rfl, rfl, rfl, rfl⟩ ?_ (State.decodeLatched_of_none rfl)
    fun hm => (h.sequential hm).of_alone rfl rfl rfl rfl
  rintro e ⟨⟩
  exact s.operandsReady_loadOperands r s.pc

/-- An instruction that a running core runs whole keeps the invariant. -/
theorem Inv.runRecord {s : State} {r : Record} {x : Executed} (h : Inv s) (hrun : s.Running)
    (hx : executeRecord r (s.loadOperands r s.pc) s = some x) : Inv (s.runRecord r x) := by
  have hx' : executeRecord r (s.loadOperands r s.pc) (s.issue r) = some x :=
    (executeRecord_congr r _ rfl rfl rfl).trans hx
  have executed : Inv ((s.issue r).executeWith (s.loadOperands r s.pc) x) := (h.issue r).executeWith rfl hx' hrun
  cases x with
  | raises c info => exact executed
  | done eff => exact executed.seqWriteback (State.executeBuf_executeWith_done _ _ eff)

/-- A step of sequential mode keeps the invariant. -/
theorem Inv.seqStep {s t : State} (h : Inv s) (hm : s.params.mode = .sequential) (ht : s.seqStep = .next t) : Inv t := by
  unfold State.seqStep at ht
  cases hstop : s.seqStopped with
  | true => rw [hstop] at ht; cases ht; exact h
  | false =>
    simp only [hstop, Bool.false_eq_true, if_false] at ht
    obtain ⟨-, running⟩ := State.seqStopped_eq_false hstop
    cases hb : s.atBoundary with
    | true =>
      obtain ⟨x, hx, hrun⟩ := s.seqInstruction_eq_runRecord
      simp only [hb, if_true, hrun] at ht
      cases ht
      exact h.runRecord (running hb) hx
    | false =>
      simp only [hb, Bool.false_eq_true, if_false] at ht
      exact h.seqCycles hm ht

end Sys2Proof.Machine

/-! SUPPORT. The state invariant along one cycle of pipelined mode, and along every step. -/

namespace Sys2Proof.Machine

/-! ## P1 to P3 -/

/-- P2 latches the decoding of the word in D (46_pipeline.md R278). -/
theorem State.decodeLatched_decodeStep (s : State) : s.decodeStep.DecodeLatched := by
  intro d hd r hr
  obtain ⟨d', -, rfl⟩ := Option.map_eq_some_iff.mp hd
  exact (Option.some.inj hr).symm

/-- Forwarding fills the latches and touches neither the word in D nor its record (47_hazards_forwarding.md R311). -/
theorem State.mem_forwardedDecode {s : State} {d : DecodeBuf} (h : s.forwardedDecode = some d) :
    ∃ d', s.decodeBuf = some d' ∧ d.word = d'.word ∧ d.record = d'.record := by
  unfold State.forwardedDecode at h
  split at h
  · obtain ⟨d', hd', rfl⟩ := Option.map_eq_some_iff.mp h
    exact ⟨d', hd', rfl, rfl⟩
  · exact ⟨d, h, rfl, rfl⟩

theorem State.decodeLatched_forwardStep {s : State} (h : s.DecodeLatched) : s.forwardStep.DecodeLatched := by
  unfold State.forwardStep
  split
  · intro d hd r hr
    obtain ⟨d', hd', hword, hrecord⟩ := State.mem_forwardedDecode hd
    rw [hword]
    exact h d' hd' r (hrecord.symm.trans hr)
  · exact h

theorem State.decodeLatched_frontHalf (s : State) : s.frontHalf.DecodeLatched :=
  State.decodeLatched_forwardStep s.fetchStep.decodeLatched_decodeStep

theorem Inv.frontHalf {s : State} (h : Inv s) (hm : s.params.mode = .pipelined) : Inv s.frontHalf :=
  h.of_keepsResults_pipelined hm ⟨by simp, by simp, by simp, by simp⟩ (fun e he => h.operands e (by simpa using he))
    s.decodeLatched_frontHalf

/-! ## P4 -/

theorem Inv.with_branchTaken {s : State} (h : Inv s) (hm : s.params.mode = .pipelined) (b : Bool) :
    Inv { s with branchTaken := b } :=
  h.of_keepsResults_pipelined hm ⟨rfl, rfl, rfl, rfl⟩ h.operands h.latched

theorem Inv.executeLatched {s : State} {e : ExecBuf} {x : Executed} (h : Inv s) (hm : s.params.mode = .pipelined)
    (he : s.executeBuf = some e) (hx : executeRecord e.record e s = some x) (hrun : s.Running) :
    Inv (s.executeLatched e x) :=
  (h.executeWith he hx hrun).with_branchTaken (by rw [State.executeWith_params]; exact hm) _

@[simp] theorem State.executeLatched_params (s : State) (e : ExecBuf) (x : Executed) :
    (s.executeLatched e x).params = s.params :=
  s.executeWith_params e x

/-! ## P5 to P7 -/

theorem Inv.commitWriteback {s : State} (h : Inv s) (hm : s.params.mode = .pipelined) : Inv s.commitWriteback :=
  h.of_keepsResults_pipelined hm ⟨by simp, by simp, by simp, by simp⟩ (fun e he => h.operands e (by simpa using he))
    fun d hd => h.latched d (by simpa using hd)

theorem Inv.countCycle {s : State} (h : Inv s) (hm : s.params.mode = .pipelined) : Inv s.countCycle :=
  h.of_keepsResults_pipelined hm ⟨rfl, rfl, rfl, rfl⟩ h.operands h.latched

/-- E receives D with its operands resolved (47_hazards_forwarding.md R312). -/
theorem State.executeReady_advance (s : State) : s.advance.ExecuteReady := by
  intro e he
  obtain ⟨d, -, rfl⟩ := Option.map_eq_some_iff.mp he
  exact s.operandsReady_resolve d

/-- D receives a word that is not yet decoded (47_hazards_forwarding.md R310). -/
theorem State.decodeLatched_advance (s : State) : s.advance.DecodeLatched := by
  intro d hd r hr
  obtain ⟨f, -, rfl⟩ := Option.map_eq_some_iff.mp hd
  cases hr

theorem Inv.stallWith {s : State} (h : Inv s) (hm : s.params.mode = .pipelined) (n m t : Bool) :
    Inv (s.stallWith n m t) :=
  h.of_keepsResults_pipelined hm ⟨rfl, rfl, rfl, rfl⟩ (State.executeReady_of_none rfl) h.latched

theorem Inv.flush {s : State} (h : Inv s) (hm : s.params.mode = .pipelined) : Inv s.flush :=
  h.of_keepsResults_pipelined hm ⟨rfl, rfl, rfl, rfl⟩ (State.executeReady_of_none rfl) (State.decodeLatched_of_none rfl)

theorem Inv.advance {s : State} (h : Inv s) (hm : s.params.mode = .pipelined) : Inv s.advance :=
  h.of_keepsResults_pipelined hm ⟨rfl, rfl, rfl, rfl⟩ s.executeReady_advance s.decodeLatched_advance

/-- Every outcome of the hazard step keeps the invariant. -/
theorem Inv.hazardStep {s : State} (h : Inv s) (hm : s.params.mode = .pipelined) : Inv s.hazardStep := by
  unfold State.hazardStep
  cases s.hazardOutcome with
  | stall n m t => exact h.stallWith hm n m t
  | flush => exact h.flush hm
  | stallT => exact h.stallWith hm false false true
  | proceed => exact h.advance hm

theorem Inv.finishCycle {s : State} (h : Inv s) (hm : s.params.mode = .pipelined) : Inv s.finishCycle := by
  have hm' : s.commitWriteback.params.mode = .pipelined := by simpa using hm
  have counted : Inv s.commitWriteback.countCycle := (h.commitWriteback hm).countCycle hm'
  unfold State.finishCycle
  split
  · exact counted
  · exact counted.hazardStep hm'

/-! ## A whole step -/

/-- A core that is not halted is running. -/
theorem State.running_of_halted_eq_false {s : State} (h : s.halted = false) : s.Running := by
  simpa [State.halted, State.Running] using h

theorem State.running_frontHalf {s : State} (h : s.Running) : s.frontHalf.Running := by
  simpa [State.Running] using h

/-- A cycle of a running pipelined core keeps the invariant. -/
theorem Inv.pipeCycle {s t : State} (h : Inv s) (hm : s.params.mode = .pipelined) (hrun : s.Running)
    (ht : s.pipeCycle = .next t) : Inv t := by
  have hm' : s.frontHalf.params.mode = .pipelined := by simpa using hm
  have front : Inv s.frontHalf := h.frontHalf hm
  obtain ⟨-, hc⟩ | ⟨e, x, he, hx, hc⟩ | ⟨e, -, -, hc⟩ := s.pipeCycle_cases
  · cases hc.symm.trans ht
    exact front.finishCycle hm'
  · cases hc.symm.trans ht
    have executed : Inv (s.frontHalf.executeLatched e x) :=
      front.executeLatched hm' (by simpa using he) hx (State.running_frontHalf hrun)
    exact executed.finishCycle (by simpa using hm)
  · cases hc.symm.trans ht

/-- A step of pipelined mode keeps the invariant. -/
theorem Inv.pipeStep {s t : State} (h : Inv s) (hm : s.params.mode = .pipelined) (ht : s.pipeStep = .next t) : Inv t := by
  unfold State.pipeStep at ht
  split at ht
  · cases ht; exact h
  · exact h.pipeCycle hm (State.running_of_halted_eq_false (by simpa using ‹¬ s.halted = true›)) ht

/-- Settles O55: mode by mode. A sequential step is one instruction (`Inv.runRecord`) or the remaining stages of one
(`Inv.seqCycles`); a pipelined step is one cycle (`Inv.pipeCycle`). -/
theorem stepKeepsTheStateInvariant : Obligations.StepKeepsTheStateInvariant := by
  intro s t h ht
  unfold step at ht
  cases hm : s.params.mode with
  | sequential => rw [hm] at ht; exact h.seqStep hm ht
  | pipelined => rw [hm] at ht; exact h.pipeStep hm ht

end Sys2Proof.Machine

/-! SUPPORT. The list form of data memory (20_memory.md R64): a canonical list is determined by what its addresses read. -/

namespace Sys2Proof.Machine

theorem Memory.read_cons_self (a : Nat) (v : Byte) (m : Memory) : Memory.read ((a, v) :: m) a = v := by
  simp [Memory.read]

theorem Memory.read_cons_of_ne {a b : Nat} (h : b ≠ a) (v : Byte) (m : Memory) :
    Memory.read ((b, v) :: m) a = m.read a := by
  simp [Memory.read, h]

/-- The canonical form of a list with a first entry: its value is not the unlisted one, and the
other entries lie above it and are canonical. -/
theorem Memory.wf_cons {a : Nat} {v : Byte} {m : Memory} :
    Memory.wf ((a, v) :: m) ↔ v ≠ Memory.unlisted ∧ (∀ c ∈ m, a < c.1) ∧ m.wf := by
  simp only [Memory.wf, List.pairwise_cons, List.forall_mem_cons]
  tauto

/-- A canonical list lists only addresses that do not read the unlisted value, so a list that reads like one with a first
entry at `a` cannot have all its entries above `a`. -/
theorem Memory.not_forall_lt_of_read_eq {a : Nat} {v : Byte} {m m' : Memory} (hv : v ≠ Memory.unlisted)
    (h : ∀ b, Memory.read ((a, v) :: m) b = m'.read b) : ¬ ∀ c ∈ m', a < c.1 := by
  intro habove
  refine hv ?_
  calc v = Memory.read ((a, v) :: m) a := (Memory.read_cons_self a v m).symm
    _ = m'.read a := h a
    _ = Memory.unlisted := Memory.read_of_lt m' a habove

/-- Of two canonical lists that read alike, the first address of the one is not below that of the other. -/
theorem Memory.head_le_of_read_eq {a a' : Nat} {v v' : Byte} {m m' : Memory} (hm : Memory.wf ((a, v) :: m))
    (hm' : Memory.wf ((a', v') :: m')) (h : ∀ b, Memory.read ((a, v) :: m) b = Memory.read ((a', v') :: m') b) :
    a' ≤ a := by
  obtain ⟨hv, -, -⟩ := Memory.wf_cons.mp hm
  obtain ⟨-, above', -⟩ := Memory.wf_cons.mp hm'
  by_contra hlt
  have haa' : a < a' := Nat.lt_of_not_le hlt
  refine Memory.not_forall_lt_of_read_eq hv h (List.forall_mem_cons.mpr ⟨haa', fun c hc => ?_⟩)
  exact haa'.trans (above' c hc)

/-- Under a common first address, lists that read alike have rests that read alike. -/
theorem Memory.read_tail_eq {a : Nat} {v v' : Byte} {m m' : Memory} (above : ∀ c ∈ m, a < c.1)
    (above' : ∀ c ∈ m', a < c.1) (h : ∀ b, Memory.read ((a, v) :: m) b = Memory.read ((a, v') :: m') b) (b : Nat) :
    m.read b = m'.read b := by
  by_cases hb : a = b
  · subst hb
    rw [Memory.read_of_lt m a above, Memory.read_of_lt m' a above']
  · calc m.read b = Memory.read ((a, v) :: m) b := (Memory.read_cons_of_ne hb v m).symm
      _ = Memory.read ((a, v') :: m') b := h b
      _ = m'.read b := Memory.read_cons_of_ne hb v' m'

/-- Settles O25, by induction on the lists: their first addresses are the same, so their first values are, and the rests
read alike. -/
theorem canonicalMemoriesThatReadAlikeAreEqual : Obligations.CanonicalMemoriesThatReadAlikeAreEqual := by
  intro m
  induction m with
  | nil =>
    intro m' _ hm' h
    match m' with
    | [] => rfl
    | (a', v') :: rest' =>
      obtain ⟨hv', -, -⟩ := Memory.wf_cons.mp hm'
      exact absurd nofun (Memory.not_forall_lt_of_read_eq hv' fun b => (h b).symm)
  | cons c rest ih =>
    obtain ⟨a, v⟩ := c
    intro m' hm hm' h
    obtain ⟨hv, above, hrest⟩ := Memory.wf_cons.mp hm
    match m' with
    | [] => exact absurd nofun (Memory.not_forall_lt_of_read_eq hv h)
    | (a', v') :: rest' =>
      obtain rfl : a = a' :=
        Nat.le_antisymm (Memory.head_le_of_read_eq hm' hm fun b => (h b).symm) (Memory.head_le_of_read_eq hm hm' h)
      obtain ⟨-, above', hrest'⟩ := Memory.wf_cons.mp hm'
      have hvalue : v = v' := by simpa only [Memory.read_cons_self] using h a
      rw [hvalue, ih rest' hrest hrest' (Memory.read_tail_eq above above' h)]

end Sys2Proof.Machine

/-! SUPPORT. What no step changes: the loaded program and the parameters of the run (20_memory.md R62, 10_state.md R39). -/

namespace Sys2Proof.Machine

/-- The state `t` holds the program and the parameters of `s`. -/
structure KeepsProgram (s t : State) : Prop where
  imem : t.imem = s.imem
  params : t.params = s.params

theorem KeepsProgram.refl (s : State) : KeepsProgram s s := ⟨rfl, rfl⟩

theorem KeepsProgram.trans {s t u : State} (h : KeepsProgram s t) (k : KeepsProgram t u) : KeepsProgram s u :=
  ⟨k.imem.trans h.imem, k.params.trans h.params⟩

/-! ## Execute, in both modes -/

@[simp] theorem State.executeWith_imem (s : State) (e : ExecBuf) (x : Executed) : (s.executeWith e x).imem = s.imem := by
  cases x <;> rfl

@[simp] theorem State.executeLatched_imem (s : State) (e : ExecBuf) (x : Executed) :
    (s.executeLatched e x).imem = s.imem :=
  s.executeWith_imem e x

/-! ## Sequential mode -/

theorem State.keepsProgram_runRecord (s : State) (r : Record) (x : Executed) : KeepsProgram s (s.runRecord r x) := by
  cases x with
  | done eff => rw [State.runRecord_done]; exact ⟨rfl, rfl⟩
  | raises c info => rw [State.runRecord_raises]; exact ⟨rfl, rfl⟩

theorem SeqStage.keepsProgram {s t : State} (h : SeqStage s t) : KeepsProgram s t := by
  cases h with
  | stopped => exact .refl _
  | fetch => exact ⟨rfl, rfl⟩
  | decode => exact ⟨rfl, rfl⟩
  | execute d x noFault decoded answer =>
    exact KeepsProgram.trans (t := s.seqLoad) ⟨rfl, rfl⟩ ⟨State.executeWith_imem _ _ _, State.executeWith_params _ _ _⟩
  | writeback => exact ⟨s.seqWriteback_imem, s.seqWriteback_params⟩

/-- A chain that answers a next state has an intermediate one. -/
theorem andThen_eq_next {r : Result} {k : State → Result} {t : State} (h : andThen r k = .next t) :
    ∃ u, r = .next u ∧ k u = .next t := by
  cases r with
  | next u => exact ⟨u, rfl, h⟩
  | fault c => cases h
  | refused c => cases h

theorem State.keepsProgram_of_seqCycles {s t : State} {n : Nat} (h : s.seqCycles n = .next t) : KeepsProgram s t := by
  induction n generalizing s with
  | zero => cases h; exact .refl _
  | succ k ih =>
    obtain ⟨u, hu, ht⟩ := andThen_eq_next h
    exact (State.seqStage_of_seqCycle hu).keepsProgram.trans (ih ht)

theorem State.keepsProgram_of_seqStep {s t : State} (h : s.seqStep = .next t) : KeepsProgram s t := by
  unfold State.seqStep at h
  split at h
  · cases h; exact .refl _
  · split at h
    · obtain ⟨x, -, hrun⟩ := s.seqInstruction_eq_runRecord
      cases hrun.symm.trans h
      exact s.keepsProgram_runRecord _ x
    · exact State.keepsProgram_of_seqCycles h

/-! ## Pipelined mode -/

theorem State.keepsProgram_hazardStep (s : State) : KeepsProgram s s.hazardStep := by
  unfold State.hazardStep
  cases s.hazardOutcome with
  | stall | flush | stallT | proceed => exact ⟨rfl, rfl⟩

/-- P5 to P7 keep the program, whether or not the hazard step runs. -/
theorem State.keepsProgram_finishCycle (s : State) : KeepsProgram s s.finishCycle := by
  have counted : KeepsProgram s s.commitWriteback.countCycle := ⟨by simp, by simp⟩
  unfold State.finishCycle
  split
  · exact counted
  · exact counted.trans (State.keepsProgram_hazardStep _)

theorem State.keepsProgram_of_pipeCycle {s t : State} (h : s.pipeCycle = .next t) : KeepsProgram s t := by
  obtain ⟨-, hc⟩ | ⟨e, x, -, -, hc⟩ | ⟨e, -, -, hc⟩ := s.pipeCycle_cases
  · cases hc.symm.trans h
    exact KeepsProgram.trans ⟨by simp, by simp⟩ (State.keepsProgram_finishCycle _)
  · cases hc.symm.trans h
    exact KeepsProgram.trans ⟨by simp, by simp⟩ (State.keepsProgram_finishCycle _)
  · cases hc.symm.trans h

theorem State.keepsProgram_of_pipeStep {s t : State} (h : s.pipeStep = .next t) : KeepsProgram s t := by
  unfold State.pipeStep at h
  split at h
  · cases h; exact .refl _
  · exact State.keepsProgram_of_pipeCycle h

/-- Settles O54: mode by mode, every answer of a step keeps the program. -/
theorem stepKeepsProgramAndParameters : Obligations.StepKeepsProgramAndParameters := by
  intro s t h
  have kept : KeepsProgram s t := by
    unfold step at h
    split at h
    · exact State.keepsProgram_of_seqStep h
    · exact State.keepsProgram_of_pipeStep h
  exact ⟨kept.imem, kept.params⟩

end Sys2Proof.Machine

/-! SUPPORT. The opcode table as a set of leading-bit patterns (30_encoding.md R101 to R103): which row the decoder finds. -/

namespace Sys2Proof

/-! ## The leading bits of a word -/

/-- A candidate is the slice of the leading bits, as a number. -/
theorem candidate_eq_toNat_extractLsb' {k : Nat} (hk : k ≤ 32) (w : IWord) :
    candidate k w = (w.extractLsb' (32 - k) k).toNat := by
  have hlt : w.toNat < 2 ^ (32 - k) * 2 ^ k := by
    rw [← Nat.pow_add, Nat.sub_add_cancel hk]
    exact w.isLt
  rw [candidate, BitVec.extractLsb'_toNat, Nat.shiftRight_eq_div_pow,
    Nat.mod_eq_of_lt (Nat.div_lt_of_lt_mul hlt)]

/-- The leading bits of a word as a field of `k` bits, from the candidate they form. -/
theorem ofNat_eq_extractLsb'_of_candidate {k c : Nat} (hk : k ≤ 32) {w : IWord} (h : candidate k w = c) :
    BitVec.ofNat k c = w.extractLsb' (32 - k) k := by
  rw [← h, candidate_eq_toNat_extractLsb' hk, BitVec.ofNat_toNat, BitVec.setWidth_eq]

/-- A shorter candidate is the beginning of a longer one. -/
theorem candidate_shiftRight {j k : Nat} (hjk : j ≤ k) (hk : k ≤ 32) (w : IWord) :
    candidate k w >>> (k - j) = candidate j w := by
  rw [candidate, candidate, ← Nat.shiftRight_add]
  congr 1
  omega

/-- Words that agree under a mask agree on every slice that the mask covers. -/
theorem extractLsb'_eq_of_and_eq {s n : Nat} {v w m : IWord} (h : w &&& m = v &&& m)
    (hm : m.extractLsb' s n = BitVec.allOnes n) : w.extractLsb' s n = v.extractLsb' s n := by
  have hs := congrArg (BitVec.extractLsb' s n) h
  rwa [BitVec.extractLsb'_and, BitVec.extractLsb'_and, hm, BitVec.and_allOnes, BitVec.and_allOnes] at hs

/-- Words that agree under a mask of the leading `k` bits have the same candidate of width `k`. -/
theorem candidate_eq_of_and_eq {k : Nat} (hk : k ≤ 32) {v w m : IWord} (h : w &&& m = v &&& m)
    (hm : m.extractLsb' (32 - k) k = BitVec.allOnes k) : candidate k w = candidate k v := by
  rw [candidate_eq_toNat_extractLsb' hk, candidate_eq_toNat_extractLsb' hk, extractLsb'_eq_of_and_eq h hm]

/-! ## Rows and the words that they match -/

/-- The leading bits of `w` are the opcode of row `r` (R101). -/
def OpcodeRow.Matches (r : OpcodeRow) (w : IWord) : Prop := candidate r.width w = r.value

/-- Settles O4: a finite fact of the table. -/
theorem opcodeTableIsPrefixFree : Obligations.OpcodeTableIsPrefixFree := by
  unfold Obligations.OpcodeTableIsPrefixFree
  decide

/-- Every row has one of the five widths that the decoder tries. -/
theorem width_mem_of_mem_opcodeTable : ∀ r ∈ opcodeTable, r.width ∈ [6, 8, 9, 10, 11] := by decide

/-- Every row of the table is the row of its own entry. -/
theorem op_row_of_mem_opcodeTable : ∀ r ∈ opcodeTable, r.op.row = r := by decide

theorem Op.row_mem (op : Op) : op.row ∈ opcodeTable := by cases op <;> decide

theorem width_le_of_mem_opcodeTable : ∀ r ∈ opcodeTable, r.width ≤ 11 := by decide

/-- An opcode stands inside the word. -/
theorem width_le_ilen {r : OpcodeRow} (hr : r ∈ opcodeTable) : r.width ≤ 32 :=
  (width_le_of_mem_opcodeTable r hr).trans (by decide)

/-- The first bits of a matching row's opcode are the word's. -/
theorem OpcodeRow.Matches.leadingBits_eq {r : OpcodeRow} {w : IWord} (h : r.Matches w) (hr : r ∈ opcodeTable) {j : Nat}
    (hj : j ≤ r.width) : r.value >>> (r.width - j) = candidate j w := by
  rw [← h, candidate_shiftRight hj (width_le_ilen hr)]

/-- By R103 a word matches at most one row. -/
theorem eq_of_matches {q r : OpcodeRow} {w : IWord} (hq : q ∈ opcodeTable) (hr : r ∈ opcodeTable) (hwq : q.Matches w)
    (hwr : r.Matches w) : q = r := by
  have agree : ∀ q ∈ opcodeTable, ∀ r ∈ opcodeTable, q.Matches w → r.Matches w →
      q.value >>> (q.width - min q.width r.width) = r.value >>> (r.width - min q.width r.width) :=
    fun q hq r hr hwq hwr =>
      (hwq.leadingBits_eq hq (Nat.min_le_left _ _)).trans (hwr.leadingBits_eq hr (Nat.min_le_right _ _)).symm
  have distinct : opcodeTable.Pairwise fun q r => q.Matches w → ¬ r.Matches w :=
    opcodeTableIsPrefixFree.2.imp_of_mem fun hq hr hne hwq hwr => hne (agree _ hq _ hr hwq hwr)
  have : Std.Symm fun q r : OpcodeRow => q.Matches w → ¬ r.Matches w := ⟨fun _ _ h hr hq => h hq hr⟩
  by_contra hne
  exact distinct.forall hq hr hne hwq hwr

/-- By R103 a word matches the row of at most one entry. -/
theorem op_eq_of_matches {op op' : Op} {w : IWord} (h : op.row.Matches w) (h' : op'.row.Matches w) : op = op' := by
  rw [← op.row_op, eq_of_matches op.row_mem op'.row_mem h h', Op.row_op]

/-! ## The row that the decoder finds -/

/-- A lookup answers a row of the table with the key that was looked up. -/
theorem lookupOpcode_eq_some {k c : Nat} {r : OpcodeRow} (h : lookupOpcode k c = some r) :
    r ∈ opcodeTable ∧ r.width = k ∧ r.value = c := by
  have hkey := List.find?_some h
  rw [Bool.and_eq_true, beq_iff_eq, beq_iff_eq] at hkey
  exact ⟨List.mem_of_find?_eq_some h, hkey⟩

/-- The row that the decoder finds is a row of the table and matches the word. -/
theorem matches_of_findRow {w : IWord} {r : OpcodeRow} (h : findRow w = some r) : r ∈ opcodeTable ∧ r.Matches w := by
  obtain ⟨k, -, hk⟩ := List.exists_of_findSome?_eq_some h
  obtain ⟨hr, rfl, hc⟩ := lookupOpcode_eq_some hk
  exact ⟨hr, hc.symm⟩

/-- A word that matches a row of the table finds some row. -/
theorem findRow_ne_none {w : IWord} {r : OpcodeRow} (hr : r ∈ opcodeTable) (h : r.Matches w) : findRow w ≠ none := by
  intro hnone
  have hmiss := List.findSome?_eq_none_iff.mp hnone r.width (width_mem_of_mem_opcodeTable r hr)
  rw [h, ← op_row_of_mem_opcodeTable r hr, lookup_row] at hmiss
  cases hmiss

/-- The decoder finds exactly the row of the table that the word matches: the order of the widths makes no difference
(R101, R103). -/
theorem findRow_eq_some_iff {w : IWord} {r : OpcodeRow} : findRow w = some r ↔ r ∈ opcodeTable ∧ r.Matches w := by
  refine ⟨matches_of_findRow, fun ⟨hr, h⟩ => ?_⟩
  obtain ⟨r', hfind⟩ := Option.ne_none_iff_exists'.mp (findRow_ne_none hr h)
  obtain ⟨hr', h'⟩ := matches_of_findRow hfind
  rw [hfind, eq_of_matches hr' hr h' h]

/-- The decoder finds no row exactly if the word matches none. -/
theorem findRow_eq_none_iff {w : IWord} : findRow w = none ↔ ∀ r ∈ opcodeTable, ¬ r.Matches w := by
  constructor
  · exact fun hnone r hr h => findRow_ne_none hr h hnone
  · intro hmiss
    by_contra hsome
    obtain ⟨r, hfind⟩ := Option.ne_none_iff_exists'.mp hsome
    obtain ⟨hr, h⟩ := matches_of_findRow hfind
    exact hmiss r hr h

/-! ## What decode answers -/

/-- A word that matches no row is unrecognized (R106). -/
theorem decode_of_no_match {w : IWord} (h : ∀ r ∈ opcodeTable, ¬ r.Matches w) : decode w = .error .noOpcodeMatch := by
  rw [decode, findRow_eq_none_iff.mpr h]

/-- A word that matches a row decodes to the record of that row. -/
theorem decode_of_matches {w : IWord} (op : Op) (h : op.row.Matches w) : decode w = buildRecord op w := by
  rw [decode, findRow_eq_some_iff.mpr ⟨op.row_mem, h⟩]
  exact congrArg (buildRecord · w) op.row_op

/-- Every word matches the row of some entry or none. -/
theorem matches_or_no_match (w : IWord) : (∃ op : Op, op.row.Matches w) ∨ ∀ r ∈ opcodeTable, ¬ r.Matches w := by
  by_cases h : ∃ r ∈ opcodeTable, r.Matches w
  · obtain ⟨r, hr, hw⟩ := h
    exact .inl ⟨r.op, by rwa [op_row_of_mem_opcodeTable r hr]⟩
  · exact .inr fun r hr hw => h ⟨r, hr, hw⟩

/-- The mask column of R102: ones on the row's opcode bits. -/
def OpcodeRow.mask (r : OpcodeRow) : IWord := BitVec.allOnes 32 <<< (32 - r.width)

/-- The match column of R102: the row's opcode as leading bits. -/
def OpcodeRow.pattern (r : OpcodeRow) : IWord := BitVec.ofNat 32 r.value <<< (32 - r.width)

theorem OpcodeRow.mask_covers : ∀ r ∈ opcodeTable, r.mask.extractLsb' (32 - r.width) r.width = BitVec.allOnes r.width := by
  decide

theorem OpcodeRow.pattern_and_mask : ∀ r ∈ opcodeTable, r.pattern &&& r.mask = r.pattern := by decide

theorem OpcodeRow.matches_pattern : ∀ r ∈ opcodeTable, candidate r.width r.pattern = r.value := by decide

/-- A word that equals a row's match column under the row's mask decodes to the record of that row. -/
theorem decode_of_and_mask {w : IWord} (op : Op) (h : w &&& op.row.mask = op.row.pattern) :
    decode w = buildRecord op w := by
  have hand : w &&& op.row.mask = op.row.pattern &&& op.row.mask := h.trans (op.row.pattern_and_mask op.row_mem).symm
  have hcand := candidate_eq_of_and_eq (width_le_ilen op.row_mem) hand (op.row.mask_covers op.row_mem)
  exact decode_of_matches op (hcand.trans (op.row.matches_pattern op.row_mem))

/-- Settles O5: each row's record, by the row's mask and match columns. -/
theorem opcodeTableRowsDecodeTheirFields : Obligations.OpcodeTableRowsDecodeTheirFields := by
  rintro w _ _ _ _ _ _ _ _ _ _ rfl rfl rfl rfl rfl rfl rfl rfl rfl rfl
  have sdiv (h : w &&& 0xFFE00000 = 0x9AC00000) (hsh : fieldShamt w = 2) :
      decode w = .ok (.sdiv (fieldRd w) (fieldRn w) (fieldRm w)) :=
    (decode_of_and_mask .divide h).trans (if_pos hsh)
  have udiv (h : w &&& 0xFFE00000 = 0x9AC00000) (hsh : fieldShamt w = 3) :
      decode w = .ok (.udiv (fieldRd w) (fieldRn w) (fieldRm w)) := by
    rw [decode_of_and_mask .divide h, buildRecord, refineDivide, hsh]
    rfl
  exact ⟨decode_of_and_mask .and, decode_of_and_mask .add, decode_of_and_mask .mul, decode_of_and_mask .smulh,
    decode_of_and_mask .umulh, decode_of_and_mask .orr, decode_of_and_mask .adds, decode_of_and_mask .eor,
    decode_of_and_mask .sub, decode_of_and_mask .ands, decode_of_and_mask .subs, decode_of_and_mask .lsr,
    decode_of_and_mask .lsl, decode_of_and_mask .br, decode_of_and_mask .exit, decode_of_and_mask .addi,
    decode_of_and_mask .andi, decode_of_and_mask .addis, decode_of_and_mask .orri, decode_of_and_mask .subi,
    decode_of_and_mask .eori, decode_of_and_mask .subis, decode_of_and_mask .andis, decode_of_and_mask .sturb,
    decode_of_and_mask .ldurb, decode_of_and_mask .sturh, decode_of_and_mask .ldurh, decode_of_and_mask .sturw,
    decode_of_and_mask .ldursw, decode_of_and_mask .stxr, decode_of_and_mask .ldxr, decode_of_and_mask .stur,
    decode_of_and_mask .ldur, decode_of_and_mask .b, decode_of_and_mask .bl, decode_of_and_mask .bCond,
    decode_of_and_mask .cbz, decode_of_and_mask .cbnz, decode_of_and_mask .movz, decode_of_and_mask .movk, sdiv, udiv⟩

/-! ## Unrecognized words -/

/-- The record of an entry is an error exactly for the divide row with a `shamt` that is neither SDIV's nor UDIV's (R104). -/
theorem buildRecord_eq_error_iff {op : Op} {w : IWord} :
    (∃ u, buildRecord op w = .error u) ↔ op = .divide ∧ fieldShamt w ≠ shamtSdiv ∧ fieldShamt w ≠ shamtUdiv := by
  cases op with
  | divide => unfold buildRecord refineDivide; split_ifs <;> simp [*]
  | _ => simp [buildRecord]

/-- Settles O6: by the row that the word matches, if any. -/
theorem unrecognizedExactlyWhenNoRowMatches : Obligations.UnrecognizedExactlyWhenNoRowMatches := by
  intro w
  simp only [← Nat.shiftRight_eq_div_pow]
  change _ ↔ (∀ r ∈ opcodeTable, ¬ r.Matches w) ∨
    (Op.divide.row.Matches w ∧ fieldShamt w ≠ shamtSdiv ∧ fieldShamt w ≠ shamtUdiv)
  obtain ⟨op, hop⟩ | hnone := matches_or_no_match w
  · rw [decode_of_matches op hop, buildRecord_eq_error_iff]
    constructor
    · rintro ⟨rfl, hsh⟩
      exact .inr ⟨hop, hsh⟩
    · rintro (hnone | ⟨hd, hsh⟩)
      · exact absurd hop (hnone _ op.row_mem)
      · exact ⟨op_eq_of_matches hop hd, hsh⟩
  · exact ⟨fun _ => .inl hnone, fun _ => ⟨_, decode_of_no_match hnone⟩⟩

end Sys2Proof

/-! SUPPORT. The layout of a word in each of the six formats (30_encoding.md R92 to R97): the fields of an encoded word, and
the word as its fields. -/

namespace Sys2Proof

section
open BitVec

/-! ## Slices under a mask -/

/-- A slice of the complement is the complement of the slice. -/
theorem extractLsb'_not_of_le {s n : Nat} {m : IWord} (h : s + n ≤ 32) :
    (~~~m).extractLsb' s n = ~~~m.extractLsb' s n := by
  ext k hk
  simp [Nat.lt_of_lt_of_le (Nat.add_lt_add_left hk s) h]

/-- Words that agree off a mask agree on every slice that the mask leaves out. -/
theorem extractLsb'_eq_of_and_not_eq {s n : Nat} {v w m : IWord} (h : w &&& ~~~m = v &&& ~~~m) (hsn : s + n ≤ 32)
    (hm : m.extractLsb' s n = 0#n) : w.extractLsb' s n = v.extractLsb' s n := by
  refine extractLsb'_eq_of_and_eq h ?_
  rw [extractLsb'_not_of_le hsn, hm, not_zero]

/-- Words that agree off a mask that leaves the leading 11 bits out match the same rows of the table. -/
theorem matches_iff_of_and_not_eq {r : OpcodeRow} (hr : r ∈ opcodeTable) {v w m : IWord} (h : w &&& ~~~m = v &&& ~~~m)
    (hm : m.extractLsb' 21 11 = 0#11) : r.Matches w ↔ r.Matches v := by
  have longest : candidate 11 w = candidate 11 v := by
    rw [candidate_eq_toNat_extractLsb' (by decide), candidate_eq_toNat_extractLsb' (by decide),
      extractLsb'_eq_of_and_not_eq h (by decide) hm]
  have hwidth := width_le_of_mem_opcodeTable r hr
  rw [OpcodeRow.Matches, OpcodeRow.Matches, ← candidate_shiftRight hwidth (by decide), longest,
    candidate_shiftRight hwidth (by decide)]

/-! ## Immediates -/

/-- The field of a sign-extended immediate is what was extended (R99). -/
theorem setWidth_signExtend_of_le {n : Nat} (hn : n ≤ 64) (v : BitVec n) : (v.signExtend 64).setWidth n = v := by
  ext k hk
  simp [BitVec.getElem_signExtend, hk, Nat.lt_of_lt_of_le hk hn]

/-- An immediate that the decoder reads fits its field. -/
theorem fitsSigned_sext64 {n : Nat} (hn : n ≤ 64) (v : BitVec n) : fitsSigned n (sext64 v) = true := by
  rw [fitsSigned, sext64, setWidth_signExtend_of_le hn, beq_self_eq_true]

/-- An immediate that fits its field is read back from it. -/
theorem sext64_setWidth {n : Nat} {v : Word} (h : fitsSigned n v = true) : sext64 (v.setWidth n) = v := eq_of_beq h

/-! ## The fields of an encoded word -/

section
variable (op : Op) (rm rn rd : RegIdx) (sh : BitVec 6) (imm : Word) (slot : BitVec 2) (mv : BitVec 16)

@[simp] theorem fieldRd_encodeR : fieldRd (encodeR op rm sh rn rd) = rd := extractLsb'_append_eq_right
@[simp] theorem fieldRd_encodeI : fieldRd (encodeI op imm rn rd) = rd := extractLsb'_append_eq_right
@[simp] theorem fieldRd_encodeD : fieldRd (encodeD op imm rn rd) = rd := extractLsb'_append_eq_right
@[simp] theorem fieldRd_encodeC : fieldRd (encodeC op imm rd) = rd := extractLsb'_append_eq_right
@[simp] theorem fieldRd_encodeM : fieldRd (encodeM op slot mv rd) = rd := extractLsb'_append_eq_right

@[simp] theorem fieldRn_encodeR : fieldRn (encodeR op rm sh rn rd) = rn := by
  rw [fieldRn, encodeR, extractLsb'_append_eq_of_le (by decide)]
  exact extractLsb'_append_eq_right

@[simp] theorem fieldRn_encodeI : fieldRn (encodeI op imm rn rd) = rn := by
  rw [fieldRn, encodeI, extractLsb'_append_eq_of_le (by decide)]
  exact extractLsb'_append_eq_right

@[simp] theorem fieldRn_encodeD : fieldRn (encodeD op imm rn rd) = rn := by
  rw [fieldRn, encodeD, extractLsb'_append_eq_of_le (by decide)]
  exact extractLsb'_append_eq_right

@[simp] theorem fieldShamt_encodeR : fieldShamt (encodeR op rm sh rn rd) = sh := by
  rw [fieldShamt, encodeR, extractLsb'_append_eq_of_le (by decide), extractLsb'_append_eq_of_le (by decide)]
  exact extractLsb'_append_eq_right

@[simp] theorem fieldRm_encodeR : fieldRm (encodeR op rm sh rn rd) = rm := by
  rw [fieldRm, encodeR, extractLsb'_append_eq_of_le (by decide), extractLsb'_append_eq_of_le (by decide),
    extractLsb'_append_eq_of_le (by decide)]
  exact extractLsb'_append_eq_right

@[simp] theorem fieldAluImm_encodeI : fieldAluImm (encodeI op imm rn rd) = sext64 (imm.setWidth 12) := by
  rw [fieldAluImm, encodeI, extractLsb'_append_eq_of_le (by decide), extractLsb'_append_eq_of_le (by decide)]
  exact congrArg sext64 extractLsb'_append_eq_right

@[simp] theorem fieldDtAddr_encodeD : fieldDtAddr (encodeD op imm rn rd) = sext64 (imm.setWidth 9) := by
  rw [fieldDtAddr, encodeD, extractLsb'_append_eq_of_le (by decide), extractLsb'_append_eq_of_le (by decide),
    extractLsb'_append_eq_of_le (by decide)]
  exact congrArg sext64 extractLsb'_append_eq_right

@[simp] theorem fieldBrAddr_encodeB : fieldBrAddr (encodeB op imm) = sext64 (imm.setWidth 26) :=
  congrArg sext64 extractLsb'_append_eq_right

@[simp] theorem fieldCondBrAddr_encodeC : fieldCondBrAddr (encodeC op imm rd) = sext64 (imm.setWidth 19) := by
  rw [fieldCondBrAddr, encodeC, extractLsb'_append_eq_of_le (by decide)]
  exact congrArg sext64 extractLsb'_append_eq_right

@[simp] theorem fieldMovImm_encodeM : fieldMovImm (encodeM op slot mv rd) = mv := by
  rw [fieldMovImm, encodeM, extractLsb'_append_eq_of_le (by decide)]
  exact extractLsb'_append_eq_right

@[simp] theorem fieldLsl_encodeM : fieldLsl (encodeM op slot mv rd) = slot := by
  rw [fieldLsl, encodeM, extractLsb'_append_eq_of_le (by decide), extractLsb'_append_eq_of_le (by decide)]
  exact extractLsb'_append_eq_right

end

/-! ## A word is its fields -/

theorem append_fieldsR (w : IWord) :
    w.extractLsb' 21 11 ++ fieldRm w ++ fieldShamt w ++ fieldRn w ++ fieldRd w = w := by
  rw [fieldRm, fieldShamt, fieldRn, fieldRd, extractLsb'_append_extractLsb'_eq_extractLsb' (rfl : 21 = 16 + 5),
    extractLsb'_append_extractLsb'_eq_extractLsb' (rfl : 16 = 10 + 6),
    extractLsb'_append_extractLsb'_eq_extractLsb' (rfl : 10 = 5 + 5),
    extractLsb'_append_extractLsb'_eq_extractLsb' (rfl : 5 = 0 + 5)]
  exact extractLsb'_eq_self

theorem append_fieldsI (w : IWord) : w.extractLsb' 22 10 ++ w.extractLsb' 10 12 ++ fieldRn w ++ fieldRd w = w := by
  rw [fieldRn, fieldRd, extractLsb'_append_extractLsb'_eq_extractLsb' (rfl : 22 = 10 + 12),
    extractLsb'_append_extractLsb'_eq_extractLsb' (rfl : 10 = 5 + 5),
    extractLsb'_append_extractLsb'_eq_extractLsb' (rfl : 5 = 0 + 5)]
  exact extractLsb'_eq_self

theorem append_fieldsD (w : IWord) :
    w.extractLsb' 21 11 ++ w.extractLsb' 12 9 ++ w.extractLsb' 10 2 ++ fieldRn w ++ fieldRd w = w := by
  rw [fieldRn, fieldRd, extractLsb'_append_extractLsb'_eq_extractLsb' (rfl : 21 = 12 + 9),
    extractLsb'_append_extractLsb'_eq_extractLsb' (rfl : 12 = 10 + 2),
    extractLsb'_append_extractLsb'_eq_extractLsb' (rfl : 10 = 5 + 5),
    extractLsb'_append_extractLsb'_eq_extractLsb' (rfl : 5 = 0 + 5)]
  exact extractLsb'_eq_self

theorem append_fieldsB (w : IWord) : w.extractLsb' 26 6 ++ w.extractLsb' 0 26 = w := extractLsb'_append_extractLsb'

theorem append_fieldsC (w : IWord) : w.extractLsb' 24 8 ++ w.extractLsb' 5 19 ++ fieldRd w = w := by
  rw [fieldRd, extractLsb'_append_extractLsb'_eq_extractLsb' (rfl : 24 = 5 + 19),
    extractLsb'_append_extractLsb'_eq_extractLsb' (rfl : 5 = 0 + 5)]
  exact extractLsb'_eq_self

theorem append_fieldsM (w : IWord) : w.extractLsb' 23 9 ++ fieldLsl w ++ fieldMovImm w ++ fieldRd w = w := by
  rw [fieldLsl, fieldMovImm, fieldRd, extractLsb'_append_extractLsb'_eq_extractLsb' (rfl : 23 = 21 + 2),
    extractLsb'_append_extractLsb'_eq_extractLsb' (rfl : 21 = 5 + 16),
    extractLsb'_append_extractLsb'_eq_extractLsb' (rfl : 5 = 0 + 5)]
  exact extractLsb'_eq_self

/-! ## Encoding the fields of a word gives the word back -/

section
variable {op : Op} {w : IWord}

theorem encodeI_fields (h : candidate 10 w = op.row.value) : encodeI op (fieldAluImm w) (fieldRn w) (fieldRd w) = w := by
  rw [encodeI, fieldAluImm, sext64, setWidth_signExtend_of_le (by decide), ofNat_eq_extractLsb'_of_candidate (by decide) h]
  exact append_fieldsI w

theorem encodeB_fields (h : candidate 6 w = op.row.value) : encodeB op (fieldBrAddr w) = w := by
  rw [encodeB, fieldBrAddr, sext64, setWidth_signExtend_of_le (by decide), ofNat_eq_extractLsb'_of_candidate (by decide) h]
  exact append_fieldsB w

theorem encodeC_fields (h : candidate 8 w = op.row.value) : encodeC op (fieldCondBrAddr w) (fieldRd w) = w := by
  rw [encodeC, fieldCondBrAddr, sext64, setWidth_signExtend_of_le (by decide),
    ofNat_eq_extractLsb'_of_candidate (by decide) h]
  exact append_fieldsC w

theorem encodeM_fields (h : candidate 9 w = op.row.value) : encodeM op (fieldLsl w) (fieldMovImm w) (fieldRd w) = w := by
  rw [encodeM, ofNat_eq_extractLsb'_of_candidate (by decide) h]
  exact append_fieldsM w

/-- The conjunction of two words of five fields, field by field. -/
theorem and_append₅ {n₁ n₂ n₃ n₄ n₅ : Nat} {a a' : BitVec n₁} {b b' : BitVec n₂} {c c' : BitVec n₃} {d d' : BitVec n₄}
    {e e' : BitVec n₅} : (a ++ b ++ c ++ d ++ e) &&& (a' ++ b' ++ c' ++ d' ++ e') =
      (a &&& a') ++ (b &&& b') ++ (c &&& c') ++ (d &&& d') ++ (e &&& e') := by
  simp only [and_append]

theorem encodeR_and (rm : RegIdx) (sh : BitVec 6) (rn rd : RegIdx) (m : IWord) :
    encodeR op rm sh rn rd &&& m = (BitVec.ofNat 11 op.row.value &&& m.extractLsb' 21 11) ++ (rm &&& fieldRm m) ++
      (sh &&& fieldShamt m) ++ (rn &&& fieldRn m) ++ (rd &&& fieldRd m) := by
  conv_lhs => rw [← append_fieldsR m]
  exact and_append₅

theorem encodeD_and (disp : Word) (rn rt : RegIdx) (m : IWord) :
    encodeD op disp rn rt &&& m = (BitVec.ofNat 11 op.row.value &&& m.extractLsb' 21 11) ++
      (disp.setWidth 9 &&& m.extractLsb' 12 9) ++ (0 &&& m.extractLsb' 10 2) ++ (rn &&& fieldRn m) ++ (rt &&& fieldRd m) := by
  conv_lhs => rw [← append_fieldsD m]
  exact and_append₅

/-- A field that is the word's own, or all of whose bits are masked out, agrees with the word's off the mask. -/
theorem and_extractLsb'_not {s n : Nat} {m : IWord} {x : BitVec n} (hsn : s + n ≤ 32)
    (h : x = w.extractLsb' s n ∨ m.extractLsb' s n = allOnes n) :
    x &&& (~~~m).extractLsb' s n = w.extractLsb' s n &&& (~~~m).extractLsb' s n := by
  obtain rfl | hm := h
  · rfl
  · rw [extractLsb'_not_of_le hsn, hm, not_allOnes, and_zero, and_zero]

/-- A format R word agrees off a mask with the encoding of its own fields, up to fields that are masked out. -/
theorem encodeR_and_not {rm rn rd : RegIdx} {sh : BitVec 6} {m : IWord} (h : candidate 11 w = op.row.value)
    (hrm : rm = fieldRm w ∨ fieldRm m = allOnes 5) (hsh : sh = fieldShamt w ∨ fieldShamt m = allOnes 6)
    (hrn : rn = fieldRn w ∨ fieldRn m = allOnes 5) (hrd : rd = fieldRd w ∨ fieldRd m = allOnes 5) :
    encodeR op rm sh rn rd &&& ~~~m = w &&& ~~~m := by
  have hrm' : rm &&& fieldRm (~~~m) = fieldRm w &&& fieldRm (~~~m) := and_extractLsb'_not (by decide) hrm
  have hsh' : sh &&& fieldShamt (~~~m) = fieldShamt w &&& fieldShamt (~~~m) := and_extractLsb'_not (by decide) hsh
  have hrn' : rn &&& fieldRn (~~~m) = fieldRn w &&& fieldRn (~~~m) := and_extractLsb'_not (by decide) hrn
  have hrd' : rd &&& fieldRd (~~~m) = fieldRd w &&& fieldRd (~~~m) := and_extractLsb'_not (by decide) hrd
  conv_rhs => rw [← append_fieldsR w, ← append_fieldsR (~~~m)]
  rw [encodeR_and, ofNat_eq_extractLsb'_of_candidate (by decide) h, hrm', hsh', hrn', hrd']
  exact and_append₅.symm

/-- A format D word agrees with the encoding of its fields off a mask that holds `op2`. -/
theorem encodeD_fields_and_not {m : IWord} (h : candidate 11 w = op.row.value) (hm : m.extractLsb' 10 2 = allOnes 2) :
    encodeD op (fieldDtAddr w) (fieldRn w) (fieldRd w) &&& ~~~m = w &&& ~~~m := by
  have hop2 : (0 : BitVec 2) &&& (~~~m).extractLsb' 10 2 = w.extractLsb' 10 2 &&& (~~~m).extractLsb' 10 2 :=
    and_extractLsb'_not (by decide) (.inr hm)
  conv_rhs => rw [← append_fieldsD w, ← append_fieldsD (~~~m)]
  rw [encodeD_and, fieldDtAddr, sext64, setWidth_signExtend_of_le (by decide),
    ofNat_eq_extractLsb'_of_candidate (by decide) h, hop2]
  exact and_append₅.symm

end

end

end Sys2Proof

/-! SUPPORT. Decode and encode against each other (30_encoding.md R104, R105). -/

namespace Sys2Proof

/-! ## The record of a table entry -/

/-- SDIV and UDIV are told apart by `shamt` (R104). -/
theorem refineDivide_eq_ok {w : IWord} {i : Instr} (h : refineDivide w = .ok i) :
    (fieldShamt w = shamtSdiv ∧ i = .sdiv (fieldRd w) (fieldRn w) (fieldRm w)) ∨
    (fieldShamt w = shamtUdiv ∧ i = .udiv (fieldRd w) (fieldRn w) (fieldRm w)) := by
  unfold refineDivide at h
  split_ifs at h with hs hu
  · cases h; exact .inl ⟨hs, rfl⟩
  · cases h; exact .inr ⟨hu, rfl⟩

/-- An entry's record is an instruction of that entry. -/
theorem op_of_buildRecord {op : Op} {w : IWord} {i : Instr} (h : buildRecord op w = .ok i) : i.op = op := by
  cases op with
  | divide => obtain ⟨-, rfl⟩ | ⟨-, rfl⟩ := refineDivide_eq_ok h <;> rfl
  | _ => cases h; rfl

/-- The immediates of a record fit their fields, since they were extended from them (R99). -/
theorem wf_of_buildRecord {op : Op} {w : IWord} {i : Instr} (h : buildRecord op w = .ok i) : i.wf = true := by
  cases op with
  | b | bl | bCond | cbz | cbnz | addi | andi | addis | orri | subi | eori | subis | andis | sturb | ldurb | sturh | ldurh
  | sturw | ldursw | stxr | ldxr | stur | ldur =>
    cases h
    exact fitsSigned_sext64 (by decide) _
  | divide => obtain ⟨-, rfl⟩ | ⟨-, rfl⟩ := refineDivide_eq_ok h <;> rfl
  | and | add | mul | smulh | umulh | orr | adds | eor | sub | ands | subs | lsr | lsl | br | movz | movk | exit =>
    cases h
    rfl

/-- A word decodes to an instruction exactly if it matches the instruction's row and its fields are the instruction's. -/
theorem decode_eq_ok_iff {w : IWord} {i : Instr} : decode w = .ok i ↔ i.op.row.Matches w ∧ buildRecord i.op w = .ok i := by
  constructor
  · intro h
    obtain ⟨op, hop⟩ | hnone := matches_or_no_match w
    · rw [decode_of_matches op hop] at h
      obtain rfl := op_of_buildRecord h
      exact ⟨hop, h⟩
    · rw [decode_of_no_match hnone] at h
      cases h
  · rintro ⟨hop, h⟩
    rwa [decode_of_matches i.op hop]

/-! ## Decoding what was encoded -/

/-- An encoded word matches the row of its instruction. -/
theorem matches_encode (i : Instr) : i.op.row.Matches (encode i) :=
  match i with
  | .b disp => Laws.OpcodeField.b disp
  | .sturb rt rn disp => Laws.OpcodeField.sturb rt rn disp
  | .ldurb rt rn disp => Laws.OpcodeField.ldurb rt rn disp
  | .bCond cond disp => Laws.OpcodeField.bCond cond disp
  | .sturh rt rn disp => Laws.OpcodeField.sturh rt rn disp
  | .ldurh rt rn disp => Laws.OpcodeField.ldurh rt rn disp
  | .and rd rn rm => Laws.OpcodeField.and rd rn rm
  | .add rd rn rm => Laws.OpcodeField.add rd rn rm
  | .addi rd rn imm => Laws.OpcodeField.addi rd rn imm
  | .andi rd rn imm => Laws.OpcodeField.andi rd rn imm
  | .bl disp => Laws.OpcodeField.bl disp
  | .sdiv rd rn rm => Laws.OpcodeField.sdiv rd rn rm
  | .udiv rd rn rm => Laws.OpcodeField.udiv rd rn rm
  | .mul rd rn rm => Laws.OpcodeField.mul rd rn rm
  | .smulh rd rn rm => Laws.OpcodeField.smulh rd rn rm
  | .umulh rd rn rm => Laws.OpcodeField.umulh rd rn rm
  | .orr rd rn rm => Laws.OpcodeField.orr rd rn rm
  | .adds rd rn rm => Laws.OpcodeField.adds rd rn rm
  | .addis rd rn imm => Laws.OpcodeField.addis rd rn imm
  | .orri rd rn imm => Laws.OpcodeField.orri rd rn imm
  | .cbz rt disp => Laws.OpcodeField.cbz rt disp
  | .cbnz rt disp => Laws.OpcodeField.cbnz rt disp
  | .sturw rt rn disp => Laws.OpcodeField.sturw rt rn disp
  | .ldursw rt rn disp => Laws.OpcodeField.ldursw rt rn disp
  | .stxr rt rn disp => Laws.OpcodeField.stxr rt rn disp
  | .ldxr rt rn disp => Laws.OpcodeField.ldxr rt rn disp
  | .eor rd rn rm => Laws.OpcodeField.eor rd rn rm
  | .sub rd rn rm => Laws.OpcodeField.sub rd rn rm
  | .subi rd rn imm => Laws.OpcodeField.subi rd rn imm
  | .eori rd rn imm => Laws.OpcodeField.eori rd rn imm
  | .movz rd imm slot => Laws.OpcodeField.movz rd imm slot
  | .lsr rd rn shamt => Laws.OpcodeField.lsr rd rn shamt
  | .lsl rd rn shamt => Laws.OpcodeField.lsl rd rn shamt
  | .br rn => Laws.OpcodeField.br rn
  | .ands rd rn rm => Laws.OpcodeField.ands rd rn rm
  | .subs rd rn rm => Laws.OpcodeField.subs rd rn rm
  | .subis rd rn imm => Laws.OpcodeField.subis rd rn imm
  | .andis rd rn imm => Laws.OpcodeField.andis rd rn imm
  | .movk rd imm slot => Laws.OpcodeField.movk rd imm slot
  | .stur rt rn disp => Laws.OpcodeField.stur rt rn disp
  | .ldur rt rn disp => Laws.OpcodeField.ldur rt rn disp
  | .exit => Laws.OpcodeField.exit

/-- The fields of an encoded word are the operands that were encoded. -/
theorem buildRecord_encode (i : Instr) (hwf : i.wf = true) : buildRecord i.op (encode i) = .ok i := by
  cases i with
  | b disp | bl disp => simp [Instr.op, buildRecord, encode, sext64_setWidth hwf]
  | bCond rt disp | cbz rt disp | cbnz rt disp => simp [Instr.op, buildRecord, encode, sext64_setWidth hwf]
  | addi rd rn imm | andi rd rn imm | addis rd rn imm | orri rd rn imm | subi rd rn imm | eori rd rn imm | subis rd rn imm
  | andis rd rn imm => simp [Instr.op, buildRecord, encode, sext64_setWidth hwf]
  | sturb rt rn disp | ldurb rt rn disp | sturh rt rn disp | ldurh rt rn disp | sturw rt rn disp | ldursw rt rn disp
  | stxr rt rn disp | ldxr rt rn disp | stur rt rn disp | ldur rt rn disp =>
    simp [Instr.op, buildRecord, encode, sext64_setWidth hwf]
  | sdiv rd rn rm | udiv rd rn rm => simp [Instr.op, buildRecord, encode, refineDivide, shamtSdiv, shamtUdiv]
  | and | add | mul | smulh | umulh | orr | adds | eor | sub | ands | subs | lsr | lsl | br | movz | movk | exit =>
    simp [Instr.op, buildRecord, encode]

/-- Settles O1: an encoded word matches its instruction's row and carries its operands. -/
theorem decodeEncodeRoundTrip : Obligations.DecodeEncodeRoundTrip :=
  fun i hwf => decode_eq_ok_iff.mpr ⟨matches_encode i, buildRecord_encode i hwf⟩

/-! ## Ignored bits -/

/-- The opcode is not among the ignored bits. -/
theorem opcode_ignoredBits (i : Instr) : i.ignoredBits.extractLsb' 21 11 = 0#11 := by
  cases i <;> simp [Instr.ignoredBits]

/-- Words that agree on every bit are equal. -/
theorem eq_of_and_not_zero {w v : IWord} (h : w &&& ~~~0#32 = v &&& ~~~0#32) : w = v := by
  rwa [BitVec.not_zero, BitVec.and_allOnes, BitVec.and_allOnes] at h

/-- Words that agree outside the ignored bits of `i` have the same fields of `i`. -/
theorem buildRecord_congr {i : Instr} {w v : IWord} (h : w &&& ~~~i.ignoredBits = v &&& ~~~i.ignoredBits) :
    buildRecord i.op w = buildRecord i.op v := by
  cases i with
  | b | bl | bCond | cbz | cbnz | addi | andi | addis | orri | subi | eori | subis | andis | movz | movk | sdiv | udiv =>
    rw [eq_of_and_not_zero h]
  | sturb rt rn disp | ldurb rt rn disp | sturh rt rn disp | ldurh rt rn disp | sturw rt rn disp | ldursw rt rn disp
  | stxr rt rn disp | ldxr rt rn disp | stur rt rn disp | ldur rt rn disp =>
    have h : w &&& ~~~0x00000C00 = v &&& ~~~0x00000C00 := h
    have hrt : fieldRd w = fieldRd v := extractLsb'_eq_of_and_not_eq h (by decide) rfl
    have hrn : fieldRn w = fieldRn v := extractLsb'_eq_of_and_not_eq h (by decide) rfl
    have hdisp : fieldDtAddr w = fieldDtAddr v := congrArg sext64 (extractLsb'_eq_of_and_not_eq h (by decide) rfl)
    simp only [Instr.op, buildRecord, hrt, hrn, hdisp]
  | and rd rn rm | add rd rn rm | mul rd rn rm | smulh rd rn rm | umulh rd rn rm | orr rd rn rm | adds rd rn rm
  | eor rd rn rm | sub rd rn rm | ands rd rn rm | subs rd rn rm =>
    have h : w &&& ~~~0x0000FC00 = v &&& ~~~0x0000FC00 := h
    have hrd : fieldRd w = fieldRd v := extractLsb'_eq_of_and_not_eq h (by decide) rfl
    have hrn : fieldRn w = fieldRn v := extractLsb'_eq_of_and_not_eq h (by decide) rfl
    have hrm : fieldRm w = fieldRm v := extractLsb'_eq_of_and_not_eq h (by decide) rfl
    simp only [Instr.op, buildRecord, hrd, hrn, hrm]
  | lsr rd rn shamt | lsl rd rn shamt =>
    have h : w &&& ~~~0x001F0000 = v &&& ~~~0x001F0000 := h
    have hrd : fieldRd w = fieldRd v := extractLsb'_eq_of_and_not_eq h (by decide) rfl
    have hrn : fieldRn w = fieldRn v := extractLsb'_eq_of_and_not_eq h (by decide) rfl
    have hsh : fieldShamt w = fieldShamt v := extractLsb'_eq_of_and_not_eq h (by decide) rfl
    simp only [Instr.op, buildRecord, hrd, hrn, hsh]
  | br rn =>
    have h : w &&& ~~~0x001FFC1F = v &&& ~~~0x001FFC1F := h
    have hrn : fieldRn w = fieldRn v := extractLsb'_eq_of_and_not_eq h (by decide) rfl
    simp only [Instr.op, buildRecord, hrn]
  | exit => rfl

/-- Ignored bits make no difference to decode (R104). -/
theorem decode_eq_of_agree {i : Instr} {w v : IWord} (h : decode w = .ok i)
    (agree : w &&& ~~~i.ignoredBits = v &&& ~~~i.ignoredBits) : decode v = .ok i := by
  obtain ⟨hmatch, hrec⟩ := decode_eq_ok_iff.mp h
  have hmatch' : i.op.row.Matches v := (matches_iff_of_and_not_eq i.op.row_mem agree (opcode_ignoredBits i)).mp hmatch
  exact decode_eq_ok_iff.mpr ⟨hmatch', (buildRecord_congr agree).symm.trans hrec⟩

/-! ## Canonical words -/

/-- The ignored bits of an encoded word hold their canonical values (R104). -/
theorem canonical_encode (i : Instr) : i.canonical (encode i) = true := by
  cases i with
  | b | bl | bCond | cbz | cbnz | addi | andi | addis | orri | subi | eori | subis | andis | movz | movk | sdiv | udiv =>
    exact beq_iff_eq.mpr BitVec.and_zero
  | sturb rt rn disp | ldurb rt rn disp | sturh rt rn disp | ldurh rt rn disp | sturw rt rn disp | ldursw rt rn disp
  | stxr rt rn disp | ldxr rt rn disp | stur rt rn disp | ldur rt rn disp =>
    simp [Instr.canonical, Instr.ignoredBits, encode, encodeD_and, fieldRn, fieldRd]
  | and rd rn rm | add rd rn rm | mul rd rn rm | smulh rd rn rm | umulh rd rn rm | orr rd rn rm | adds rd rn rm
  | eor rd rn rm | sub rd rn rm | ands rd rn rm | subs rd rn rm | lsr rd rn shamt | lsl rd rn shamt | br rn | exit =>
    simp [Instr.canonical, Instr.ignoredBits, encode, encodeR_and, fieldRm, fieldShamt, fieldRn, fieldRd, shamtMul]

/-- Two canonical words of an instruction agree on the ignored bits. -/
theorem and_ignoredBits_eq_of_canonical {i : Instr} {w v : IWord} (hw : i.canonical w = true) (hv : i.canonical v = true) :
    w &&& i.ignoredBits = v &&& i.ignoredBits := by
  cases i <;> exact (eq_of_beq hw).trans (eq_of_beq hv).symm

/-- Words that agree on a mask and off it are equal. -/
theorem eq_of_and_eq_of_and_not_eq {w v m : IWord} (on : w &&& m = v &&& m) (off : w &&& ~~~m = v &&& ~~~m) : w = v := by
  have split (x : IWord) : x = x &&& m ||| x &&& ~~~m := by
    rw [← BitVec.and_or_distrib_left, BitVec.or_not_self, BitVec.and_allOnes]
  rw [split w, on, off, ← split v]

/-- Re-encoding the record of a word reproduces the word off the ignored bits (R105). -/
theorem encode_and_not_ignoredBits {i : Instr} {w : IWord} (hw : i.op.row.Matches w) (h : buildRecord i.op w = .ok i) :
    encode i &&& ~~~i.ignoredBits = w &&& ~~~i.ignoredBits := by
  cases i with
  | b | bl => cases h; exact congrArg (· &&& _) (encodeB_fields hw)
  | bCond | cbz | cbnz => cases h; exact congrArg (· &&& _) (encodeC_fields hw)
  | movz | movk => cases h; exact congrArg (· &&& _) (encodeM_fields hw)
  | addi | andi | addis | orri | subi | eori | subis | andis =>
    cases h
    exact congrArg (· &&& _) (encodeI_fields hw)
  | sturb | ldurb | sturh | ldurh | sturw | ldursw | stxr | ldxr | stur | ldur =>
    cases h
    exact encodeD_fields_and_not (m := 0x00000C00) hw rfl
  | and | add | mul | smulh | umulh | orr | adds | eor | sub | ands | subs =>
    cases h
    exact encodeR_and_not (m := 0x0000FC00) hw (.inl rfl) (.inr rfl) (.inl rfl) (.inl rfl)
  | lsr | lsl =>
    cases h
    exact encodeR_and_not (m := 0x001F0000) hw (.inr rfl) (.inl rfl) (.inl rfl) (.inl rfl)
  | br =>
    cases h
    exact encodeR_and_not (m := 0x001FFC1F) hw (.inr rfl) (.inr rfl) (.inl rfl) (.inr rfl)
  | exit => exact encodeR_and_not (m := 0x001FFFFF) hw (.inr rfl) (.inr rfl) (.inr rfl) (.inr rfl)
  | sdiv =>
    obtain ⟨hsh, ⟨⟩⟩ | ⟨-, ⟨⟩⟩ := refineDivide_eq_ok h
    exact encodeR_and_not (m := 0) hw (.inl rfl) (.inl hsh.symm) (.inl rfl) (.inl rfl)
  | udiv =>
    obtain ⟨-, ⟨⟩⟩ | ⟨hsh, ⟨⟩⟩ := refineDivide_eq_ok h
    exact encodeR_and_not (m := 0) hw (.inl rfl) (.inl hsh.symm) (.inl rfl) (.inl rfl)

/-- Settles O2: the encoded word agrees with the decoded one off the ignored bits and is canonical on them. -/
theorem reencodingReproducesTheWord : Obligations.ReencodingReproducesTheWord := by
  intro w i h
  obtain ⟨hmatch, hrec⟩ := decode_eq_ok_iff.mp h
  have hwf : i.wf = true := wf_of_buildRecord hrec
  have off : encode i &&& ~~~i.ignoredBits = w &&& ~~~i.ignoredBits := encode_and_not_ignoredBits hmatch hrec
  refine ⟨hwf, decodeEncodeRoundTrip i hwf, off, canonical_encode i, fun hcanon => ?_⟩
  exact eq_of_and_eq_of_and_not_eq (and_ignoredBits_eq_of_canonical (canonical_encode i) hcanon) off

/-- Settles O3: agreement off the ignored bits, canonical encodings, and the record of the divide row. -/
theorem ignoredBitsAndDivideRefinement : Obligations.IgnoredBitsAndDivideRefinement := by
  refine ⟨fun w v i h agree => decode_eq_of_agree h agree, canonical_encode, ?_⟩
  rintro w _ _ _ h rfl rfl rfl
  exact decode_of_and_mask .divide h

end Sys2Proof

/-! SUPPORT. Arithmetic and logic (40_arith_logic.md R140 to R159): the flag update logic flag by flag, and what an
instruction whose rule answers a register write, with or without flags, leaves behind. -/

namespace Sys2Proof.Machine

/-! ## The flag update logic (R141) -/

section
variable (a b : Word)

/-- The exact sum is 0 modulo 2^64. -/
theorem flagsAdd_z_iff : (flagsAdd a b).z = true ↔ (a.toNat + b.toNat) % 2 ^ 64 = 0 := by
  rw [flagsAdd, beq_iff_eq, BitVec.toNat_eq, BitVec.toNat_add]
  rfl

theorem flagsSub_z_iff : (flagsSub a b).z = true ↔ a = b := by
  rw [flagsSub, beq_iff_eq, sub_eq_zero]

theorem flagsAnd_z_iff : (flagsAnd a b).z = true ↔ ∀ i, i < 64 → (a.getLsbD i && b.getLsbD i) = false := by
  rw [flagsAnd, beq_iff_eq, BitVec.eq_of_getLsbD_eq_iff]
  simp only [BitVec.getLsbD_and, BitVec.ofNat_eq_ofNat, BitVec.getLsbD_zero]

theorem flagsAnd_n : (flagsAnd a b).n = (a.msb && b.msb) := by
  rw [flagsAnd, BitVec.msb_and]

/-- `C` after an addition is the library's unsigned overflow. -/
theorem flagsAdd_c : (flagsAdd a b).c = a.uaddOverflow b := by
  rw [flagsAdd, BitVec.uaddOverflow, decide_eq_decide, unsignedMax]
  omega

theorem flagsAdd_c_iff : (flagsAdd a b).c = true ↔ 2 ^ 64 - 1 < a.toNat + b.toNat := by
  rw [flagsAdd_c, BitVec.uaddOverflow, decide_eq_true_iff]
  omega

/-- `C` after an addition is the carry out of bit 63. -/
theorem flagsAdd_c_carry : (flagsAdd a b).c = (a.setWidth 65 + b.setWidth 65).getLsbD 64 := by
  rw [flagsAdd_c, BitVec.uaddOverflow_eq, BitVec.msb_eq_getLsbD_last]

/-- `C` after a subtraction is the borrow. -/
theorem flagsSub_c_iff : (flagsSub a b).c = true ↔ a.toNat < b.toNat := by
  rw [flagsSub, decide_eq_true_iff]
  omega

/-- An exact signed result overflows exactly outside the 64-bit signed range. -/
theorem signedOverflow_iff (r : Int) : signedOverflow r = true ↔ 2 ^ 63 - 1 < r ∨ r < -2 ^ 63 := by
  rw [signedOverflow, Bool.or_eq_true, decide_eq_true_iff, decide_eq_true_iff, signedMax, signedMin, gt_iff_lt]

/-- `V` after an addition is the library's signed overflow. -/
theorem flagsAdd_v : (flagsAdd a b).v = a.saddOverflow b := by
  rw [Bool.eq_iff_iff, flagsAdd, signedOverflow_iff, BitVec.saddOverflow, Bool.or_eq_true, decide_eq_true_iff,
    decide_eq_true_iff]
  omega

/-- `V` after a subtraction is the library's signed overflow. -/
theorem flagsSub_v : (flagsSub a b).v = a.ssubOverflow b := by
  rw [Bool.eq_iff_iff, flagsSub, signedOverflow_iff, BitVec.ssubOverflow, Bool.or_eq_true, decide_eq_true_iff,
    decide_eq_true_iff]
  omega

/-- A sum overflows exactly if the operands' signs agree and the result's sign is another. -/
theorem flagsAdd_v_signs : (flagsAdd a b).v = (a.msb == b.msb && (a + b).msb != a.msb) := by
  rw [flagsAdd_v, BitVec.saddOverflow_eq, bne]

/-- A difference overflows exactly if the operands' signs differ and the result's sign is not the minuend's. -/
theorem flagsSub_v_signs : (flagsSub a b).v = (a.msb != b.msb && (a - b).msb != a.msb) := by
  rw [flagsSub_v, BitVec.ssubOverflow_eq]
  cases a.msb <;> cases b.msb <;> cases (a - b).msb <;> rfl

end

/-- Settles O12, flag by flag. -/
theorem flagUpdateLogic : Obligations.FlagUpdateLogic := fun a b =>
  ⟨flagsAdd_z_iff a b, BitVec.msb_eq_getLsbD_last (a + b), flagsAdd_c_iff a b, flagsAdd_c_carry a b,
    signedOverflow_iff (a.toInt + b.toInt), flagsAdd_v_signs a b,
    flagsSub_z_iff a b, BitVec.msb_eq_getLsbD_last (a - b), flagsSub_c_iff a b,
    signedOverflow_iff (a.toInt - b.toInt), flagsSub_v_signs a b,
    flagsAnd_z_iff a b, flagsAnd_n a b, rfl, rfl⟩

/-! ## The shape of an instruction -/

/-- Format and opcode of an instruction are its row's, and its canonical word carries that opcode (30_encoding.md R102). -/
theorem hasShape_row (i : Instr) :
    HasShape i i.op.row.format i.op.row.width i.op.row.value (readsN i) (readsM i) (readsT i) (destOf i) :=
  ⟨rfl, matches_encode i, rfl, rfl, rfl, rfl⟩

/-! ## Meanings whose rule answers a register write -/

section
variable {i : Instr} {s : State} {rd : RegIdx} {v : Word} {f : Flags}

theorem computes_of_exec_eq (h : exec i s = runInstr i (.done (Effect.write rd v)) s) :
    ∃ t, exec i s = .next t ∧ Computes s t rd v :=
  ⟨_, h, State.computes_runRecord s (.instr i) rd v⟩

theorem computesFlags_of_exec_eq (h : exec i s = runInstr i (.done (Effect.writeFlags rd v f)) s) :
    ∃ t, exec i s = .next t ∧ ComputesFlags s t rd v f :=
  ⟨_, h, State.computesFlags_runRecord s (.instr i) rd v f⟩

end

/-- Settles O8: each meaning runs a rule that answers one register write. -/
theorem registerOperationsWithoutFlags : Obligations.RegisterOperationsWithoutFlags := fun rd rn rm _ =>
  ⟨⟨hasShape_row (.add rd rn rm), computes_of_exec_eq rfl⟩,
    ⟨hasShape_row (.sub rd rn rm), computes_of_exec_eq rfl⟩,
    ⟨hasShape_row (.and rd rn rm), computes_of_exec_eq rfl⟩,
    ⟨hasShape_row (.orr rd rn rm), computes_of_exec_eq rfl⟩,
    ⟨hasShape_row (.eor rd rn rm), computes_of_exec_eq rfl⟩⟩

/-- Settles O9: as O8, for every immediate. -/
theorem immediateOperationsWithoutFlags : Obligations.ImmediateOperationsWithoutFlags := fun rd rn _ imm _ _ =>
  ⟨⟨hasShape_row (.addi rd rn imm), computes_of_exec_eq rfl⟩,
    ⟨hasShape_row (.subi rd rn imm), computes_of_exec_eq rfl⟩,
    ⟨hasShape_row (.andi rd rn imm), computes_of_exec_eq rfl⟩,
    ⟨hasShape_row (.orri rd rn imm), computes_of_exec_eq rfl⟩,
    ⟨hasShape_row (.eori rd rn imm), computes_of_exec_eq rfl⟩⟩

/-- Settles O10: each meaning runs a rule that answers one register write and the flags. -/
theorem registerOperationsWithFlags : Obligations.RegisterOperationsWithFlags := fun rd rn rm _ =>
  ⟨⟨hasShape_row (.adds rd rn rm), computesFlags_of_exec_eq rfl⟩,
    ⟨hasShape_row (.subs rd rn rm), computesFlags_of_exec_eq rfl⟩,
    ⟨hasShape_row (.ands rd rn rm), computesFlags_of_exec_eq rfl⟩⟩

/-- Settles O11: as O10, for every immediate. -/
theorem immediateOperationsWithFlags : Obligations.ImmediateOperationsWithFlags := fun rd rn _ imm _ _ =>
  ⟨⟨hasShape_row (.addis rd rn imm), computesFlags_of_exec_eq rfl⟩,
    ⟨hasShape_row (.subis rd rn imm), computesFlags_of_exec_eq rfl⟩,
    ⟨hasShape_row (.andis rd rn imm), computesFlags_of_exec_eq rfl⟩⟩

/-! ## Twins with and without S (R159) -/

/-- Two states written with the same request read alike. -/
theorem sameRegs_of_writesReg {s t u : State} {rd : RegIdx} {v : Word} (ht : WritesReg s t rd v)
    (hu : WritesReg s u rd v) : SameRegs u t := fun r => (ht r).trans (hu r).symm

/-- A register that is not the zero register reads what was written to it. -/
theorem WritesReg.reg_eq {s t : State} {rd : RegIdx} {v : Word} (h : WritesReg s t rd v) (hrd : rd ≠ zeroReg) :
    t.reg rd = v := by
  rw [h rd, if_pos ⟨rfl, hrd⟩]

/-- An instruction that requests `r` with flags whose `Z` and `N` describe `r`, beside one that only requests `r`: the
registers agree, and `Z` and `N` follow `r` even where the request is dropped. -/
theorem twins_of_exec_eq {i twin : Instr} {s : State} {rd : RegIdx} {r : Word} {f : Flags}
    (hi : exec i s = runInstr i (.done (Effect.writeFlags rd r f)) s)
    (htwin : exec twin s = runInstr twin (.done (Effect.write rd r)) s) (hz : f.z = (r == 0)) (hn : f.n = r.msb) :
    ∃ t u, exec i s = .next t ∧ exec twin s = .next u ∧ SameRegs u t ∧ (rd ≠ zeroReg → t.reg rd = r) ∧
      (t.flags.z = true ↔ r = 0) ∧ (t.flags.n = true ↔ r.toInt < 0) ∧ t.flags.c = f.c ∧ t.flags.v = f.v := by
  obtain ⟨t, ht, hct⟩ := computesFlags_of_exec_eq hi
  obtain ⟨u, hu, hcu⟩ := computes_of_exec_eq htwin
  refine ⟨t, u, ht, hu, sameRegs_of_writesReg hct.regs hcu.regs, hct.regs.reg_eq, ?_⟩
  rw [hct.flags, hz, hn]
  exact ⟨beq_iff_eq, by rw [BitVec.msb_eq_toInt, decide_eq_true_iff], rfl, rfl⟩

/-- Settles O13: in each of the six pairs both rules request the same result, and `Z` and `N` are that result's. -/
theorem flagSettersComputeTheirTwinsResult : Obligations.FlagSettersComputeTheirTwinsResult := by
  rintro rd rn rm imm s i twin r f (h | h | h | h | h | h) <;> cases h <;>
    exact twins_of_exec_eq rfl rfl rfl rfl

end Sys2Proof.Machine

/-! SUPPORT. Multiply, divide and shift (41_muldiv_shift.md R180 to R189): the arithmetic of the rules against exact integers
and 128-bit products, and what each meaning leaves behind. -/

namespace Sys2Proof.Machine

/-! ## The halves of a product (R181 to R183) -/

section
variable (a b : Word)

/-- The high half of an exact product is bits 127:64 of its 128-bit two's-complement form. -/
theorem highHalf_eq_extractLsb' (p : Int) : highHalf p = (BitVec.ofInt 128 p).extractLsb' 64 64 := by
  refine BitVec.eq_of_toNat_eq ?_
  rw [highHalf, BitVec.toNat_ofInt, BitVec.extractLsb'_toNat, BitVec.toNat_ofInt, Nat.shiftRight_eq_div_pow]
  omega

/-- The low half needs no sign: truncation commutes with multiplication. -/
theorem mul_eq_extractLsb' : a * b = (a.setWidth 128 * b.setWidth 128).extractLsb' 0 64 := by
  rw [← BitVec.setWidth_eq_extractLsb' (by decide), BitVec.setWidth_mul _ _ (by decide),
    BitVec.setWidth_setWidth_of_le _ (by decide), BitVec.setWidth_setWidth_of_le _ (by decide), BitVec.setWidth_eq,
    BitVec.setWidth_eq]

theorem highHalf_toInt_mul :
    highHalf (a.toInt * b.toInt) = (a.signExtend 128 * b.signExtend 128).extractLsb' 64 64 := by
  rw [highHalf_eq_extractLsb', BitVec.ofInt_mul, BitVec.signExtend, BitVec.signExtend]

theorem highHalf_toNat_mul :
    highHalf ((a.toNat : Int) * b.toNat) = (a.setWidth 128 * b.setWidth 128).extractLsb' 64 64 := by
  rw [highHalf_eq_extractLsb', BitVec.ofInt_mul, BitVec.ofInt_natCast, BitVec.ofInt_natCast, BitVec.ofNat_toNat,
    BitVec.ofNat_toNat]

end

/-- Settles O14: each meaning runs a rule that answers one register write, of the named half of the product. -/
theorem multiplyHalves : Obligations.MultiplyHalves := by
  intro rd rn rm s
  rw [← mul_eq_extractLsb', ← highHalf_toInt_mul, ← highHalf_toNat_mul]
  exact ⟨⟨hasShape_row (.mul rd rn rm), computes_of_exec_eq rfl⟩,
    ⟨hasShape_row (.smulh rd rn rm), computes_of_exec_eq rfl⟩,
    ⟨hasShape_row (.umulh rd rn rm), computes_of_exec_eq rfl⟩⟩

/-! ## Rounding toward zero -/

/-- The remainder of a division toward zero is smaller than the divisor. -/
theorem abs_tmod_lt_abs (x : Int) {y : Int} (hy : y ≠ 0) : |x.tmod y| < |y| := by
  rw [Int.abs_eq_natAbs, Int.abs_eq_natAbs, Int.natAbs_tmod, Int.ofNat_lt]
  exact Nat.mod_lt _ (Int.natAbs_pos.mpr hy)

/-- The remainder of a division toward zero has the sign of the dividend, or is 0. -/
theorem tmod_mul_self_nonneg (x y : Int) : 0 ≤ x.tmod y * x := by
  obtain hx | hx := Int.le_total 0 x
  · exact Int.mul_nonneg (Int.tmod_nonneg y hx) hx
  · have hneg : 0 ≤ (-x).tmod y := Int.tmod_nonneg y (Int.neg_nonneg_of_nonpos hx)
    rw [Int.neg_tmod] at hneg
    exact Int.mul_nonneg_of_nonpos_of_nonpos (Int.nonpos_of_neg_nonneg hneg) hx

/-! ## The quotients (R187) -/

section
variable {a b : Word}

/-- The signed quotient of the model is the library's. -/
theorem signedQuotient_eq_sdiv (a b : Word) : signedQuotient a b = a.sdiv b :=
  BitVec.eq_of_toInt_eq (by rw [signedQuotient, BitVec.toInt_ofInt, BitVec.toInt_sdiv])

/-- The one signed quotient that does not fit wraps to -2^63 (R187 c). -/
theorem signedQuotient_of_overflow (ha : a.toInt = -2 ^ 63) (hb : b.toInt = -1) :
    signedQuotient a b = 0x8000000000000000 := by
  rw [signedQuotient, ha, hb]
  rfl

/-- Every other signed quotient is exact. -/
theorem toInt_signedQuotient (h : ¬ (a.toInt = -2 ^ 63 ∧ b.toInt = -1)) :
    (signedQuotient a b).toInt = a.toInt.tdiv b.toInt := by
  rw [signedQuotient_eq_sdiv]
  refine BitVec.toInt_sdiv_of_ne_or_ne a b (not_and_or.mp fun hab => h ?_)
  obtain ⟨rfl, rfl⟩ := hab
  exact ⟨rfl, rfl⟩

/-- The signed quotient by a nonzero divisor is rounded toward zero, but for the one that wraps (R187 b, c). -/
theorem signedQuotient_rounds (hb : b ≠ 0) :
    if a.toInt = -2 ^ 63 ∧ b.toInt = -1 then signedQuotient a b = 0x8000000000000000
    else ∃ rest : Int, a.toInt = (signedQuotient a b).toInt * b.toInt + rest ∧ |rest| < |b.toInt| ∧
      0 ≤ rest * a.toInt := by
  split
  next h => exact signedQuotient_of_overflow h.left h.right
  next h =>
    have hb' : b.toInt ≠ 0 := fun h0 => hb (BitVec.eq_of_toInt_eq h0)
    rw [toInt_signedQuotient h]
    exact ⟨a.toInt.tmod b.toInt, (Int.tdiv_mul_add_tmod a.toInt b.toInt).symm, abs_tmod_lt_abs a.toInt hb',
      tmod_mul_self_nonneg a.toInt b.toInt⟩

theorem toNat_unsignedQuotient (a b : Word) : (unsignedQuotient a b).toNat = a.toNat / b.toNat := by
  rw [unsignedQuotient, ← BitVec.udiv_def, BitVec.toNat_udiv]

/-- The unsigned quotient by a nonzero divisor is the floor (R187 d). -/
theorem unsignedQuotient_floor (hb : b ≠ 0) :
    (unsignedQuotient a b).toNat * b.toNat ≤ a.toNat ∧ a.toNat < ((unsignedQuotient a b).toNat + 1) * b.toNat := by
  have hb' : 0 < b.toNat := Nat.pos_of_ne_zero fun h0 => hb (BitVec.eq_of_toNat_eq h0)
  rw [toNat_unsignedQuotient, Nat.succ_mul]
  exact ⟨Nat.div_mul_le_self a.toNat b.toNat, Nat.lt_div_mul_add hb'⟩

end

/-! ## The meanings of SDIV and UDIV, by the divisor (R184, R185, R187) -/

section
variable {s : State} {rm : RegIdx} (rd rn : RegIdx)

theorem exec_sdiv_of_zero (h : s.reg rm = 0) :
    exec (.sdiv rd rn rm) s = runInstr (.sdiv rd rn rm) (.raises .divideByZero 0) s :=
  congrArg (runInstr _ · s) (if_pos h)

theorem exec_sdiv_of_ne_zero (h : s.reg rm ≠ 0) :
    exec (.sdiv rd rn rm) s =
      runInstr (.sdiv rd rn rm) (.done (Effect.write rd (signedQuotient (s.reg rn) (s.reg rm)))) s :=
  congrArg (runInstr _ · s) (if_neg h)

theorem exec_udiv_of_zero (h : s.reg rm = 0) :
    exec (.udiv rd rn rm) s = runInstr (.udiv rd rn rm) (.raises .divideByZero 0) s :=
  congrArg (runInstr _ · s) (if_pos h)

theorem exec_udiv_of_ne_zero (h : s.reg rm ≠ 0) :
    exec (.udiv rd rn rm) s =
      runInstr (.udiv rd rn rm) (.done (Effect.write rd (unsignedQuotient (s.reg rn) (s.reg rm)))) s :=
  congrArg (runInstr _ · s) (if_neg h)

end

/-- A state that holds a fault record is halted (60_exceptions.md R335). -/
theorem Faults.halted {s t : State} {cause : Fault} {info : Word} (h : Faults s t cause info) : t.halted = true := by
  rw [State.halted, h.fault, Option.isSome_some, Bool.or_true]

/-- A meaning whose rule raises a fault takes it and halts the core. -/
theorem faults_of_exec_eq {i : Instr} {s : State} {cause : Fault} {info : Word}
    (h : exec i s = runInstr i (.raises cause info) s) :
    ∃ t, exec i s = .next t ∧ Faults s t cause info ∧ t.halted = true :=
  have hfaults := State.faults_runRecord_raises s (.instr i) cause info
  ⟨_, h, hfaults, hfaults.halted⟩

/-- Settles O15: on a zero divisor the rule raises, which halts the core; on any other it writes the quotient. -/
theorem divisionDefined : Obligations.DivisionDefined := by
  intro rd rn rm s
  refine ⟨hasShape_row (.sdiv rd rn rm), hasShape_row (.udiv rd rn rm), fieldShamt_encodeR .divide rm rn rd shamtSdiv,
    fieldShamt_encodeR .divide rm rn rd shamtUdiv, fun hzero => ⟨?_, ?_⟩, fun hne => ⟨?_, ?_⟩⟩
  · exact faults_of_exec_eq (exec_sdiv_of_zero rd rn hzero)
  · exact faults_of_exec_eq (exec_udiv_of_zero rd rn hzero)
  · obtain ⟨t, hexec, hcomputes⟩ := computes_of_exec_eq (exec_sdiv_of_ne_zero rd rn hne)
    exact ⟨t, _, hexec, hcomputes, signedQuotient_rounds hne⟩
  · obtain ⟨t, hexec, hcomputes⟩ := computes_of_exec_eq (exec_udiv_of_ne_zero rd rn hne)
    exact ⟨t, _, hexec, hcomputes, unsignedQuotient_floor hne⟩

/-! ## Shifts (R188, R189) -/

/-- Bit `i` of a left shift by `n`: zeros enter at bit 0. -/
theorem getLsbD_shiftLeft_of_lt (v : Word) (n : Nat) {i : Nat} (hi : i < 64) :
    (v <<< n).getLsbD i = (decide (n ≤ i) && v.getLsbD (i - n)) := by
  rw [BitVec.getLsbD_shiftLeft, decide_eq_true hi, Bool.true_and, ← decide_not, decide_eq_decide.mpr Nat.not_lt]

/-- Settles O16: each meaning runs a rule that answers one register write, of the shifted operand. -/
theorem logicalShifts : Obligations.LogicalShifts := by
  intro rd rn sh s
  obtain ⟨t, hlsl, htl⟩ : ∃ t, exec (.lsl rd rn sh) s = .next t ∧ Computes s t rd (s.reg rn <<< sh.toNat) :=
    computes_of_exec_eq rfl
  obtain ⟨u, hlsr, hur⟩ : ∃ t, exec (.lsr rd rn sh) s = .next t ∧ Computes s t rd (s.reg rn >>> sh.toNat) :=
    computes_of_exec_eq rfl
  exact ⟨⟨hasShape_row (.lsl rd rn sh), t, _, hlsl, htl, fun _ hi => getLsbD_shiftLeft_of_lt (s.reg rn) sh.toNat hi⟩,
    ⟨hasShape_row (.lsr rd rn sh), u, _, hlsr, hur, fun i _ => by rw [BitVec.getLsbD_ushiftRight, Nat.add_comm]⟩⟩

end Sys2Proof.Machine

/-! SUPPORT. Wide moves (42_move.md R200, R201): a word by its four 16-bit slots, and what each meaning leaves behind. -/

namespace Sys2Proof.Machine

/-! ## The slots of a word -/

/-- The last slot ends with the word. -/
theorem slotShift_add_le (k : BitVec 2) : slotShift k + 16 ≤ 64 := by
  unfold slotShift
  omega

/-- Two different slots do not overlap. -/
theorem slotShift_disjoint {k slot : BitVec 2} (h : k ≠ slot) :
    slotShift k + 16 ≤ slotShift slot ∨ slotShift slot + 16 ≤ slotShift k := by
  have hne : k.toNat ≠ slot.toNat := fun heq => h (BitVec.eq_of_toNat_eq heq)
  unfold slotShift
  omega

/-- Bit `j` of a slot of a shifted word. -/
theorem getLsbD_extractLsb'_slot_shiftLeft (v : Word) (slot k : BitVec 2) {j : Nat} (hj : j < 16) :
    ((v <<< slotShift slot).extractLsb' (slotShift k) 16).getLsbD j =
      (decide (slotShift slot ≤ slotShift k + j) && v.getLsbD (slotShift k + j - slotShift slot)) := by
  have hlt : slotShift k + j < 64 := by have := slotShift_add_le k; omega
  rw [BitVec.getLsbD_extractLsb', decide_eq_true hj, Bool.true_and, getLsbD_shiftLeft_of_lt _ _ hlt]

/-- A 16-bit value moved to a slot fills that slot. -/
theorem extractLsb'_zext64_shiftLeft_same (imm : BitVec 16) (slot : BitVec 2) :
    (zext64 imm <<< slotShift slot).extractLsb' (slotShift slot) 16 = imm := by
  refine BitVec.eq_of_getLsbD_eq fun j hj => ?_
  have hj64 : j < 64 := by omega
  rw [getLsbD_extractLsb'_slot_shiftLeft _ _ _ hj, Nat.add_sub_cancel_left, zext64, BitVec.getLsbD_setWidth,
    decide_eq_true hj64, decide_eq_true (Nat.le_add_right _ _), Bool.true_and, Bool.true_and]

/-- A 16-bit value moved to a slot leaves every other slot 0. -/
theorem extractLsb'_zext64_shiftLeft_of_ne (imm : BitVec 16) {slot k : BitVec 2} (h : k ≠ slot) :
    (zext64 imm <<< slotShift slot).extractLsb' (slotShift k) 16 = 0 := by
  refine BitVec.eq_of_getLsbD_eq fun j hj => ?_
  rw [getLsbD_extractLsb'_slot_shiftLeft _ _ _ hj, BitVec.ofNat_eq_ofNat, BitVec.getLsbD_zero]
  obtain hbelow | habove := slotShift_disjoint h
  · have hnot : ¬ slotShift slot ≤ slotShift k + j := by omega
    rw [decide_eq_false hnot, Bool.false_and]
  · have hge : 16 ≤ slotShift k + j - slotShift slot := by omega
    rw [zext64, BitVec.getLsbD_setWidth, BitVec.getLsbD_of_ge imm _ hge, Bool.and_false, Bool.and_false]

/-- The mask of a slot is the value of sixteen ones moved to it (R201). -/
theorem slotMask_eq_zext64_shiftLeft (slot : BitVec 2) :
    slotMask slot = zext64 (BitVec.allOnes 16) <<< slotShift slot := rfl

/-- Complement acts slot by slot. -/
theorem extractLsb'_not_slot (v : Word) (k : BitVec 2) :
    (~~~ v).extractLsb' (slotShift k) 16 = ~~~ v.extractLsb' (slotShift k) 16 := by
  refine BitVec.eq_of_getLsbD_eq fun j hj => ?_
  have hlt : slotShift k + j < 64 := by have := slotShift_add_le k; omega
  rw [BitVec.getLsbD_not, BitVec.getLsbD_extractLsb', BitVec.getLsbD_extractLsb', BitVec.getLsbD_not, decide_eq_true hj,
    decide_eq_true hlt, Bool.true_and, Bool.true_and, Bool.true_and, Bool.true_and]

/-! ## The results of the two rules -/

/-- The slots of MOVZ's result (R200). -/
theorem extractLsb'_movz (imm : BitVec 16) (slot k : BitVec 2) :
    (zext64 imm <<< slotShift slot).extractLsb' (slotShift k) 16 = if k = slot then imm else 0 := by
  split
  next heq => rw [heq, extractLsb'_zext64_shiftLeft_same]
  next hne => exact extractLsb'_zext64_shiftLeft_of_ne imm hne

/-- The slots of MOVK's result: the mask clears the selected slot of the old value `vt` and the immediate fills it (R201). -/
theorem extractLsb'_movk (vt : Word) (imm : BitVec 16) (slot k : BitVec 2) :
    ((vt &&& ~~~ slotMask slot) ||| (zext64 imm <<< slotShift slot)).extractLsb' (slotShift k) 16 =
      if k = slot then imm else vt.extractLsb' (slotShift k) 16 := by
  rw [BitVec.extractLsb'_or, BitVec.extractLsb'_and, extractLsb'_not_slot, slotMask_eq_zext64_shiftLeft,
    extractLsb'_movz, extractLsb'_movz]
  split
  next => rw [BitVec.not_allOnes, BitVec.and_zero, BitVec.zero_or]
  next => rw [BitVec.ofNat_eq_ofNat, BitVec.not_zero, BitVec.and_allOnes, BitVec.or_zero]

/-- Settles O17: each meaning runs a rule that answers one register write, whose value is read slot by slot. -/
theorem wideMoves : Obligations.WideMoves := by
  intro rd imm slot s
  obtain ⟨t, hmovz, htz⟩ : ∃ t, exec (.movz rd imm slot) s = .next t ∧
      Computes s t rd (zext64 imm <<< slotShift slot) := computes_of_exec_eq rfl
  obtain ⟨u, hmovk, htk⟩ : ∃ t, exec (.movk rd imm slot) s = .next t ∧
      Computes s t rd ((s.reg rd &&& ~~~ slotMask slot) ||| (zext64 imm <<< slotShift slot)) := computes_of_exec_eq rfl
  exact ⟨⟨hasShape_row (.movz rd imm slot), t, _, hmovz, htz, extractLsb'_movz imm slot⟩,
    ⟨hasShape_row (.movk rd imm slot), u, _, hmovk, htk, extractLsb'_movk (s.reg rd) imm slot⟩⟩

end Sys2Proof.Machine

/-! SUPPORT. Branches (43_branch.md R210 to R222): the conditions of B.cond, what each branch rule answers, and what the
meaning of a branch leaves behind. -/

namespace Sys2Proof.Machine

/-! ## The conditions on the flags of a subtraction (R219) -/

section
variable (a b : Word)

/-- `N` differs from `V` exactly if the exact signed difference is negative: where the difference overflows, bit 63 of the
result is the opposite of its sign. -/
theorem flagsSub_n_ne_v_iff : (flagsSub a b).n ≠ (flagsSub a b).v ↔ a.toInt < b.toInt := by
  have hn : (flagsSub a b).n = true ↔ (a.toInt - b.toInt).bmod (2 ^ 64) < 0 := by
    rw [flagsSub, BitVec.msb_eq_toInt, decide_eq_true_iff, BitVec.toInt_sub]
  have hv : (flagsSub a b).v = true ↔ 2 ^ 63 - 1 < a.toInt - b.toInt ∨ a.toInt - b.toInt < -2 ^ 63 :=
    signedOverflow_iff _
  have ha : -2 ^ 63 ≤ a.toInt ∧ a.toInt < 2 ^ 63 := ⟨BitVec.le_toInt a, BitVec.toInt_lt⟩
  have hb : -2 ^ 63 ≤ b.toInt ∧ b.toInt < 2 ^ 63 := ⟨BitVec.le_toInt b, BitVec.toInt_lt⟩
  rw [Ne, Bool.eq_iff_iff, hn, hv, Int.bmod_def]
  omega

theorem eq_holds_flagsSub : Cond.eq.holds (flagsSub a b) = true ↔ a = b := flagsSub_z_iff a b

theorem lt_holds_flagsSub : Cond.lt.holds (flagsSub a b) = true ↔ a.toInt < b.toInt :=
  bne_iff_ne.trans (flagsSub_n_ne_v_iff a b)

end

section
variable (f : Flags)

/-! The other conditions are EQ, LT and their complements. -/

theorem Cond.holds_ne : Cond.ne.holds f = !Cond.eq.holds f := rfl

theorem Cond.holds_ge : Cond.ge.holds f = !Cond.lt.holds f := (Bool.not_not _).symm

theorem Cond.holds_le : Cond.le.holds f = (Cond.eq.holds f || Cond.lt.holds f) := rfl

theorem Cond.holds_gt : Cond.gt.holds f = !Cond.le.holds f := by
  rw [Cond.holds_le, Bool.not_or, ← Cond.holds_ne, ← Cond.holds_ge]
  rfl

end

/-- Settles O21: EQ and LT are exact on the flags of a subtraction, and the other four conditions are made of these two. -/
theorem conditionsCompareSignedAfterSubtraction : Obligations.ConditionsCompareSignedAfterSubtraction := by
  intro a b
  have eq := eq_holds_flagsSub a b
  have lt := lt_holds_flagsSub a b
  have le : Cond.le.holds (flagsSub a b) = true ↔ a.toInt ≤ b.toInt := by
    rw [Cond.holds_le, Bool.or_eq_true, eq, lt, ← BitVec.toInt_inj]
    omega
  refine ⟨eq, ?_, ?_, lt, ?_, le⟩
  · rw [Cond.holds_ne, Bool.not_eq_true', Bool.eq_false_iff, Ne, eq]
  · rw [Cond.holds_ge, Bool.not_eq_true', Bool.eq_false_iff, Ne, lt, not_lt]
  · rw [Cond.holds_gt, Bool.not_eq_true', Bool.eq_false_iff, Ne, le, not_le]

/-! ## What a completed branch leaves behind -/

/-- An instruction whose rule takes a branch and clears the flags. -/
theorem State.goesToClearing_runRecord (s : State) (r : Record) (target : Word) :
    GoesToClearing s (s.runRecord r (.done { flags := some Flags.clear, branch := .taken target })) target :=
  { State.retired_runRecord_done s r _ with
    regs := State.reg_runRecord_done s r _
    flags := by rw [State.runRecord_done]; rfl
    memory := fun a => by rw [State.runRecord_done]; rfl
    pc := by rw [State.runRecord_done]; rfl
    programEnded := by rw [State.runRecord_done]; simp }

/-- An instruction whose rule takes a branch and requests the return index in the link register. -/
theorem State.links_runRecord (s : State) (r : Record) (target : Word) :
    Links s (s.runRecord r (.done { wb := some ⟨linkReg, s.pc + 1⟩, branch := .taken target })) target :=
  { State.retired_runRecord_done s r _ with
    regs := State.writesReg_of_wb _ _ _ _ (State.reg_runRecord_done s r _)
    flags := by rw [State.runRecord_done]; rfl
    memory := fun a => by rw [State.runRecord_done]; rfl
    pc := by rw [State.runRecord_done]; rfl
    programEnded := by rw [State.runRecord_done]; simp }

section
variable {i : Instr} {s : State} {target : Word}

theorem goesTo_of_exec_eq {b : BranchOutcome} (h : exec i s = runInstr i (.done (Effect.jump b)) s) :
    ∃ t, exec i s = .next t ∧ GoesTo s t (b.pcAfter (s.pc + 1)) :=
  ⟨_, h, State.goesTo_runRecord s (.instr i) b⟩

/-- A branch on a tested register goes to its target, or on to the next instruction. -/
theorem goesTo_of_exec_eq_branchIf {taken : Bool} (h : exec i s = runInstr i (branchIf taken target) s) :
    ∃ t, exec i s = .next t ∧ GoesTo s t (if taken then target else s.pc + 1) := by
  cases taken <;> exact goesTo_of_exec_eq h

theorem goesToClearing_of_exec_eq
    (h : exec i s = runInstr i (.done { flags := some Flags.clear, branch := .taken target }) s) :
    ∃ t, exec i s = .next t ∧ GoesToClearing s t target :=
  ⟨_, h, State.goesToClearing_runRecord s (.instr i) target⟩

theorem links_of_exec_eq
    (h : exec i s = runInstr i (.done { wb := some ⟨linkReg, s.pc + 1⟩, branch := .taken target }) s) :
    ∃ t, exec i s = .next t ∧ Links s t target :=
  ⟨_, h, State.links_runRecord s (.instr i) target⟩

end

/-- Settles O18: the rules of B and BR answer a taken branch, that of BL one with the return index. -/
theorem unconditionalBranches : Obligations.UnconditionalBranches := fun disp rn _ =>
  ⟨⟨hasShape_row (.b disp), goesTo_of_exec_eq (b := .taken _) rfl⟩,
    ⟨hasShape_row (.bl disp), links_of_exec_eq rfl⟩,
    ⟨hasShape_row (.br rn), goesTo_of_exec_eq (b := .taken _) rfl⟩⟩

/-- Settles O19: both rules are `branchIf` on a test of the register with 0, which CBNZ inverts. -/
theorem compareAndBranch : Obligations.CompareAndBranch := by
  intro rt disp s
  obtain ⟨t, hcbz, ht⟩ : ∃ t, exec (.cbz rt disp) s = .next t ∧
      GoesTo s t (if s.reg rt == 0 then s.pc + 1 + disp else s.pc + 1) := goesTo_of_exec_eq_branchIf rfl
  obtain ⟨u, hcbnz, hu⟩ : ∃ u, exec (.cbnz rt disp) s = .next u ∧
      GoesTo s u (if s.reg rt != 0 then s.pc + 1 + disp else s.pc + 1) := goesTo_of_exec_eq_branchIf rfl
  exact ⟨⟨hasShape_row (.cbz rt disp), t, hcbz, by simpa only [beq_iff_eq] using ht⟩,
    hasShape_row (.cbnz rt disp), u, hcbnz, by simpa only [bne_iff_ne, Ne, ite_not] using hu⟩

/-! ## B.cond (R218, R109) -/

/-- The code of a condition, its row of the table of 30_encoding.md R109. -/
def Cond.code (k : Cond) : BitVec 5 :=
  match k with
  | .eq => 0
  | .ne => 1
  | .ge => 10
  | .lt => 11
  | .gt => 12
  | .le => 13

/-- The model's lookup finds the condition that has the code, and no other. -/
theorem condOfCode_eq_some_iff {code : BitVec 5} {k : Cond} : condOfCode code = some k ↔ code = k.code := by
  cases k <;> revert code <;> decide

/-- B.cond is taken exactly if its code is that of a condition that holds. -/
def BCondTaken (cond : BitVec 5) (f : Flags) : Prop := ∃ k : Cond, cond = k.code ∧ k.holds f = true

theorem bCondRule_of_taken {cond : BitVec 5} {f : Flags} (h : BCondTaken cond f) (disp ipc : Word) :
    bCondRule cond disp ipc f = .done { flags := some Flags.clear, branch := .taken (branchTarget ipc disp) } := by
  obtain ⟨k, hcode, hk⟩ := h
  simp only [bCondRule, condOfCode_eq_some_iff.mpr hcode, hk, if_true]

/-- An untaken B.cond answers an untaken branch and no flags, whether its condition fails or its code has no case. -/
theorem bCondRule_of_not_taken {cond : BitVec 5} {f : Flags} (h : ¬ BCondTaken cond f) (disp ipc : Word) :
    ∃ reason, bCondRule cond disp ipc f = .done (Effect.jump (.notTaken reason)) := by
  cases hcond : condOfCode cond with
  | none => exact ⟨.noMatch, by simp only [bCondRule, hcond]⟩
  | some k =>
    have hk : ¬ k.holds f = true := fun hk => h ⟨k, condOfCode_eq_some_iff.mp hcond, hk⟩
    exact ⟨.conditionFalse, by simp only [bCondRule, hcond, if_neg hk]⟩

/-- The six conditions of R219 written out on the flags. -/
theorem bCondTaken_iff (cond : BitVec 5) (f : Flags) :
    BCondTaken cond f ↔
      (cond = 0 ∧ f.z = true) ∨ (cond = 1 ∧ f.z = false) ∨ (cond = 10 ∧ f.n = f.v) ∨ (cond = 11 ∧ f.n ≠ f.v) ∨
      (cond = 12 ∧ f.z = false ∧ f.n = f.v) ∨ (cond = 13 ∧ ¬ (f.z = false ∧ f.n = f.v)) := by
  have le : Cond.le.holds f = true ↔ ¬ (f.z = false ∧ f.n = f.v) := by
    simp only [Cond.holds, Bool.or_eq_true, bne_iff_ne, not_and_or, Bool.not_eq_false, Ne]
  constructor
  · rintro ⟨k, rfl, hk⟩
    cases k with
    | eq => exact .inl ⟨rfl, hk⟩
    | ne => exact .inr (.inl ⟨rfl, by simpa [Cond.holds] using hk⟩)
    | ge => exact .inr (.inr (.inl ⟨rfl, by simpa [Cond.holds] using hk⟩))
    | lt => exact .inr (.inr (.inr (.inl ⟨rfl, by simpa [Cond.holds] using hk⟩)))
    | gt => exact .inr (.inr (.inr (.inr (.inl ⟨rfl, by simpa [Cond.holds] using hk⟩))))
    | le => exact .inr (.inr (.inr (.inr (.inr ⟨rfl, le.mp hk⟩))))
  · rintro (⟨rfl, h⟩ | ⟨rfl, h⟩ | ⟨rfl, h⟩ | ⟨rfl, h⟩ | ⟨rfl, h⟩ | ⟨rfl, h⟩)
    · exact ⟨.eq, rfl, h⟩
    · exact ⟨.ne, rfl, by simp [Cond.holds, h]⟩
    · exact ⟨.ge, rfl, by simp [Cond.holds, h]⟩
    · exact ⟨.lt, rfl, by simp [Cond.holds, h]⟩
    · exact ⟨.gt, rfl, by simp [Cond.holds, h]⟩
    · exact ⟨.le, rfl, le.mpr h⟩

/-- Settles O20: by whether the code's condition holds. -/
theorem conditionalBranch : Obligations.ConditionalBranch := by
  intro cond disp s taken htaken
  have hiff : taken ↔ BCondTaken cond s.flags := htaken.trans (bCondTaken_iff cond s.flags).symm
  have hexec : exec (.bCond cond disp) s = runInstr (.bCond cond disp) (bCondRule cond disp s.pc s.flags) s := rfl
  refine ⟨hasShape_row (.bCond cond disp), fun h => ?_, fun h => ?_⟩
  · rw [bCondRule_of_taken (hiff.mp h)] at hexec
    exact goesToClearing_of_exec_eq hexec
  · obtain ⟨reason, hrule⟩ := bCondRule_of_not_taken (fun hb => h (hiff.mpr hb)) disp s.pc
    rw [hrule] at hexec
    exact goesTo_of_exec_eq hexec

end Sys2Proof.Machine

/-! SUPPORT. The cycles of a taken branch in pipelined mode (43_branch.md R220, 47_hazards_forwarding.md R308, R318): the
cycle that ends without a fault, the hazard step under a pending flush, and the flush followed by the fetch at the target. -/

namespace Sys2Proof.Machine

/-! ## A cycle that ends without a fault -/

theorem State.finishCycle_of_no_fault {s : State} (h : s.fault = none) :
    s.finishCycle = s.commitWriteback.countCycle.hazardStep := by
  rw [State.finishCycle, if_neg (by simp [h])]

@[simp] theorem State.raw_commitWriteback_countCycle (s : State) : s.commitWriteback.countCycle.raw = s.raw := by
  simp [State.raw]

@[simp] theorem State.anyHazard_commitWriteback_countCycle (s : State) :
    s.commitWriteback.countCycle.anyHazard = s.anyHazard := by
  simp [State.anyHazard]

/-- A cycle with a bubble in E ends in the hazard step on what P1 to P3 left. -/
theorem step_of_bubble {s : State} (hm : s.params.mode = .pipelined) (hh : s.halted = false) (he : s.executeBuf = none) :
    step s = .next s.frontHalf.commitWriteback.countCycle.hazardStep := by
  have hfault : s.frontHalf.fault = none := by simpa using (State.running_of_halted_eq_false hh).2
  rw [step_pipelined s hm hh, ← State.finishCycle_of_no_fault hfault]
  obtain ⟨-, h⟩ | ⟨e, x, h, -⟩ | ⟨e, h, -⟩ := s.pipeCycle_cases
  · exact h
  · cases he.symm.trans h
  · cases he.symm.trans h

/-! ## The hazard step while a flush is pending -/

/-- The instruction in D makes a pending flush wait: a dependency on path n or m, or, under `aboveFlush`, on path t
(47_hazards_forwarding.md R306, R318, log entry 20). -/
def State.DelaysFlush (s : State) : Prop :=
  s.raw.n = true ∨ s.raw.m = true ∨ (s.raw.t = true ∧ s.params.pathTPriority = .aboveFlush)

theorem State.not_delaysFlush_of_bubble {s : State} (h : s.executeBuf = none) : ¬ s.DelaysFlush := by
  simp [State.DelaysFlush, State.raw_of_executeBuf_none s h]

theorem State.hazardStep_of_delaysFlush {s : State} (hb : s.branchTaken = true) (h : s.DelaysFlush) :
    ∃ n m t, (n || m || t) = true ∧ s.hazardStep = s.stallWith n m t := by
  obtain ⟨hnm, hs⟩ | ⟨hnm, -, ht, -⟩ | ⟨-, -, -, hs⟩ | ⟨-, hb', -⟩ := s.hazardStep_cases
  · exact ⟨_, _, _, by rw [hnm, Bool.true_or], hs⟩
  · obtain ⟨hn, hm⟩ := Bool.or_eq_false_iff.mp hnm
    have hpath : s.raw.t = true ∧ s.params.pathTPriority = .aboveFlush := by simpa [State.DelaysFlush, hn, hm] using h
    simp [hpath] at ht
  · exact ⟨_, _, _, rfl, hs⟩
  · rw [hb] at hb'
    cases hb'

theorem State.hazardStep_of_not_delaysFlush {s : State} (hb : s.branchTaken = true) (h : ¬ s.DelaysFlush) :
    s.hazardStep = s.flush := by
  obtain ⟨hnm, -⟩ | ⟨-, -, -, hs⟩ | ⟨-, hb' | habove, ht, -⟩ | ⟨-, hb', -⟩ := s.hazardStep_cases
  · exact absurd ((Bool.or_eq_true _ _ ▸ hnm).imp_right .inl) h
  · exact hs
  · cases hb.symm.trans hb'
  · exact absurd (.inr (.inr ⟨ht, habove⟩)) h
  · cases hb.symm.trans hb'

theorem State.hazardStep_of_idle {s : State} (hb : s.branchTaken = false) (he : s.executeBuf = none) :
    s.hazardStep = s.advance := by
  have hraw := s.raw_of_executeBuf_none he
  simp [State.hazardStep, State.hazardOutcome, State.flushesNow, hraw, hb]

/-! ## The flush and the fetch at the target -/

theorem State.frontHalf_decodeBuf_of_none {s : State} (h : s.decodeBuf = none) : s.frontHalf.decodeBuf = none := by
  have hd : s.fetchStep.decodeStep.decodeBuf = none := by simp [h]
  unfold State.frontHalf State.forwardStep State.forwardedDecode
  split
  · simp only [hd]
    split <;> rfl
  · exact hd

/-- The cycle after a flush fetches at the PC, moves the word to D and leaves E a bubble (43_branch.md R220, R308). -/
theorem State.flushedTo_flush {s : State} {target : Word} (hm : s.params.mode = .pipelined) (hh : s.halted = false)
    (hz : s.anyHazard = false) (hpc : s.pc = target) : FlushedTo target s.flush := by
  have hz' : s.flush.anyHazard = false := hz
  refine ⟨rfl, rfl, rfl, hpc, s.flush.frontHalf.commitWriteback.countCycle.advance, ?_, ?_, ?_, ?_⟩
  · rw [step_of_bubble (s := s.flush) hm hh rfl, State.hazardStep_of_idle (by simp) (by simp)]
  · simp [State.frontHalf_decodeBuf_of_none (s := s.flush) rfl]
  · simp [State.frontHalf_pc, hz', hpc]
  · simp [State.frontHalf_fetchBuf, hz', FetchBuf.toDecode, State.fetched, hpc]

/-- A flush that a stall has held back is taken by the next cycle, which fetches nothing (R306, R307, R318). -/
theorem State.step_stallWith {s : State} {target : Word} {n m t : Bool} (hm : s.params.mode = .pipelined)
    (hh : s.halted = false) (hb : s.branchTaken = true) (hpc : s.pc = target) (hnmt : (n || m || t) = true) :
    ∃ u, step (s.stallWith n m t) = .next u ∧ u.executeBuf = none ∧ u.pc = target ∧ FlushedTo target u := by
  have hz : (s.stallWith n m t).anyHazard = true := hnmt
  have hh' : (s.stallWith n m t).halted = false := hh
  have hstep := step_of_bubble (s := s.stallWith n m t) hm hh' rfl
  rw [State.hazardStep_of_not_delaysFlush (by simpa using hb) (State.not_delaysFlush_of_bubble (by simp))] at hstep
  have hpc' : (s.stallWith n m t).frontHalf.commitWriteback.countCycle.pc = target := by
    simpa [State.frontHalf_pc, hz] using hpc
  exact ⟨_, hstep, rfl, hpc',
    State.flushedTo_flush (by simpa using hm) (by simpa [State.halted] using hh) (by simp) hpc'⟩

/-! ## The cycle that executes a taken branch -/

/-- No instruction both takes a branch and ends the program. -/
theorem ended_eq_false_of_taken {r : Record} {e : ExecBuf} {s : State} {eff : Effect} {target : Word}
    (h : executeRecord r e s = some (.done eff)) (hb : eff.branch = .taken target) : eff.ended = false := by
  cases r with
  | unrecognized => cases h; rfl
  | invalidFetch => cases h
  | instr i =>
    cases ruleAnswer_of_executeInstr h with
    | endRun => cases hb
    | write | writeFlags | load | store | jump | jumpClearing | link => rfl

/-- Execute leaves the record in E as it is, and so the dependencies on it (R303). -/
theorem State.raw_executeLatched_done {s : State} {e : ExecBuf} (he : s.executeBuf = some e) (eff : Effect) :
    (s.executeLatched e (.done eff)).raw = s.raw := by
  rw [State.executeLatched_done]
  cases hd : s.decodeBuf <;> simp [State.raw, he, hd]

/-- What the cycle of a branch taken to `target`, begun in `s`, hands to the hazard step: the target in the PC, the latch
set, and D and its dependencies as P1 to P3 left them (43_branch.md R211). -/
structure BranchResolved (s : State) (target : Word) (b : State) : Prop where
  params : b.params = s.params
  decodeBuf : b.decodeBuf = s.frontHalf.decodeBuf
  raw : b.raw = s.frontHalf.raw
  pc : b.pc = target
  branchTaken : b.branchTaken = true
  running : b.halted = false
  noHazard : b.anyHazard = false

theorem BranchResolved.delaysFlush_iff {s b : State} {target : Word} (h : BranchResolved s target b) :
    b.DelaysFlush ↔ s.frontHalf.DelaysFlush := by
  rw [State.DelaysFlush, State.DelaysFlush, h.raw, h.params, State.frontHalf_params]

/-- The cycle of a taken branch is the hazard step on the resolved branch. -/
theorem step_of_taken {s : State} {e : ExecBuf} {eff : Effect} {target : Word} (hm : s.params.mode = .pipelined)
    (hh : s.halted = false) (he : s.executeBuf = some e) (hx : executeRecord e.record e s = some (.done eff))
    (hb : eff.branch = .taken target) : ∃ b, step s = .next b.hazardStep ∧ BranchResolved s target b := by
  obtain ⟨hended, hfault⟩ := State.running_of_halted_eq_false hh
  have hx' : executeRecord e.record e s.frontHalf = some (.done eff) := by
    rw [← hx]
    exact executeRecord_congr _ _ (by simp) (by simp) (by simp)
  have he' : s.frontHalf.executeBuf = some e := by simpa using he
  have hz := s.frontHalf_anyHazard
  refine ⟨(s.frontHalf.executeLatched e (.done eff)).commitWriteback.countCycle, ?_, ?_⟩
  · have hfault' : (s.frontHalf.executeLatched e (.done eff)).fault = none := by
      simpa [State.executeLatched_done] using hfault
    rw [step_pipelined s hm hh, State.pipeCycle, State.executeStep, he']
    simp only [hx', State.finishCycle_of_no_fault hfault']
  · have hnotEnded := ended_eq_false_of_taken hx hb
    exact
      { params := by simp
        decodeBuf := by simp [State.executeLatched_done]
        raw := by rw [State.raw_commitWriteback_countCycle, State.raw_executeLatched_done he']
        pc := by simp [State.executeLatched_done, hb, BranchOutcome.pcAfter]
        branchTaken := by simp [State.executeLatched_done, hb, BranchOutcome.isTaken]
        running := by simp [State.halted, State.executeLatched_done, hended, hfault, hnotEnded]
        noHazard := by rw [State.anyHazard_commitWriteback_countCycle]; exact hz }

/-- Settles O48: by whether the instruction in D makes the flush wait. If it does, the branch's cycle stalls and the next one
flushes (`State.step_stallWith`); if not, the branch's cycle flushes (`State.flushedTo_flush`). -/
theorem takenBranchFlushesTwoInstructions : Obligations.TakenBranchFlushesTwoInstructions := by
  intro s e eff target hm hh he hx hb
  obtain ⟨b, hstep, hres⟩ := step_of_taken hm hh he hx hb
  have hmb : b.params.mode = .pipelined := by rw [hres.params, hm]
  by_cases h : s.frontHalf.DelaysFlush
  · obtain ⟨n, m, t, hnmt, hstall⟩ := State.hazardStep_of_delaysFlush hres.branchTaken (hres.delaysFlush_iff.mpr h)
    rw [hstall] at hstep
    refine ⟨_, hstep, rfl, hres.pc, ?_⟩
    rw [← s.frontHalf_params]
    exact (if_pos h).mpr ⟨hres.decodeBuf, hres.branchTaken,
      State.step_stallWith hmb hres.running hres.branchTaken hres.pc hnmt⟩
  · rw [State.hazardStep_of_not_delaysFlush hres.branchTaken (mt hres.delaysFlush_iff.mp h)] at hstep
    refine ⟨_, hstep, rfl, hres.pc, ?_⟩
    rw [← s.frontHalf_params]
    exact (if_neg h).mpr (State.flushedTo_flush hmb hres.running hres.noHazard hres.pc)

end Sys2Proof.Machine

/-! SUPPORT. Loads and stores (44_loadstore.md R230 to R242): the big-endian number in memory as a concatenation of bytes and
against the bytes of a store, and what each meaning leaves behind, in range and out of range. -/

namespace Sys2Proof.Machine

/-! ## The big-endian number in memory (R65) -/

section
variable {m : Memory} {a : Nat}

/-- One more byte extends the number at its low end. -/
theorem Memory.readBE_succ {k w : Nat} {x : BitVec w} {b : Byte} (hb : b = m.read (a + k))
    (hx : m.readBE a k = x.setWidth 64) : m.readBE a (k + 1) = (x ++ b).setWidth 64 := by
  rw [Memory.readBE, hx, ← hb, BitVec.setWidth_append_eq_shiftLeft_setWidth_or]

section
variable {byte : Nat → Byte} (hbyte : ∀ k, byte k = m.read (a + k))
include hbyte

theorem Memory.readBE_one : m.readBE a 1 = (byte 0).setWidth 64 := by
  have hone : m.readBE a 1 = (0#0 ++ byte 0).setWidth 64 := Memory.readBE_succ (hbyte 0) rfl
  rw [hone, BitVec.zero_width_append, BitVec.setWidth_cast]

theorem Memory.readBE_two : m.readBE a 2 = (byte 0 ++ byte 1).setWidth 64 :=
  Memory.readBE_succ (hbyte 1) (Memory.readBE_one hbyte)

theorem Memory.readBE_four : m.readBE a 4 = (byte 0 ++ byte 1 ++ byte 2 ++ byte 3).setWidth 64 :=
  Memory.readBE_succ (hbyte 3) (Memory.readBE_succ (hbyte 2) (Memory.readBE_two hbyte))

theorem Memory.readBE_eight :
    m.readBE a 8 = byte 0 ++ byte 1 ++ byte 2 ++ byte 3 ++ byte 4 ++ byte 5 ++ byte 6 ++ byte 7 :=
  calc m.readBE a 8
    _ = (byte 0 ++ byte 1 ++ byte 2 ++ byte 3 ++ byte 4 ++ byte 5 ++ byte 6 ++ byte 7).setWidth 64 :=
      Memory.readBE_succ (hbyte 7) (Memory.readBE_succ (hbyte 6) (Memory.readBE_succ (hbyte 5)
        (Memory.readBE_succ (hbyte 4) (Memory.readBE_four hbyte))))
    _ = byte 0 ++ byte 1 ++ byte 2 ++ byte 3 ++ byte 4 ++ byte 5 ++ byte 6 ++ byte 7 := BitVec.setWidth_eq _

end

/-- After `k` of the `n` bytes of `v` the number read is the `k` leading bytes of the low `8n` bits of `v`. -/
theorem Memory.readBE_leading_storedBytes {n : Nat} {v : Word} (h : ∀ k, k < n → m.read (a + k) = storedByte n k v)
    {k : Nat} (hk : k ≤ n) : m.readBE a k = (v.extractLsb' (8 * (n - k)) (8 * k)).setWidth 64 := by
  induction k with
  | zero => rw [Memory.readBE, BitVec.eq_nil (v.extractLsb' _ (8 * 0))]; rfl
  | succ k ih =>
    have hjoin : v.extractLsb' (8 * (n - k)) (8 * k) ++ storedByte n k v =
        v.extractLsb' (8 * (n - (k + 1))) (8 * (k + 1)) := by
      rw [storedByte, Nat.sub_sub, Nat.add_comm 1 k]
      exact BitVec.extractLsb'_append_extractLsb'_eq_extractLsb' (by omega)
    rw [Memory.readBE_succ (h k hk).symm (ih (Nat.le_of_succ_le hk)), hjoin]

/-- The number in the `n` bytes of a store is the low `8n` bits of the stored value (R242). -/
theorem Memory.readBE_storedBytes {n : Nat} {v : Word} (hn : n ≤ 8)
    (h : ∀ k, k < n → m.read (a + k) = storedByte n k v) : m.readBE a n = (v.setWidth (8 * n)).setWidth 64 := by
  rw [Memory.readBE_leading_storedBytes h (Nat.le_refl n), Nat.sub_self, Nat.mul_zero,
    ← BitVec.setWidth_eq_extractLsb' (by omega)]

end

/-! ## Meanings whose rule is a store or a load (R230) -/

section
variable {i : Instr} {s : State} {size : Size} {rt rn : RegIdx} {disp : Word}

/-- A meaning that runs the store rule stores in range and faults out of range. -/
theorem storesOrFaults_of_exec_eq {v : Word} (hm : s.dmem.wf)
    (h : exec i s = runInstr i (storeRule s size disp (s.reg rn) v) s) :
    StoresOrFaults i s (effectiveAddr (s.reg rn) disp) size.bytes v := by
  rw [storeRule_eq] at h
  constructor
  · intro hin
    rw [if_pos hin] at h
    exact ⟨_, h, State.stores_runRecord s (.instr i) _ size v hm⟩
  · intro hout
    rw [if_neg (Nat.not_le_of_lt hout)] at h
    exact ⟨_, h, State.faults_runRecord_raises s (.instr i) _ _⟩

/-- A meaning that runs the load rule loads the extended number in range and faults out of range. -/
theorem loadsOrFaults_of_exec_eq {ext : Word → Word} {v : Word}
    (h : exec i s = runInstr i (loadRule s size ext rt disp (s.reg rn)) s)
    (hv : ext (s.dmem.readBE (effectiveAddr (s.reg rn) disp).toNat size.bytes) = v) :
    LoadsOrFaults i s (effectiveAddr (s.reg rn) disp) size.bytes rt v := by
  rw [loadRule_eq, hv] at h
  constructor
  · intro hin
    rw [if_pos hin] at h
    exact ⟨_, h, State.computes_runRecord_load s (.instr i) rt v _ rfl⟩
  · intro hout
    rw [if_neg (Nat.not_le_of_lt hout)] at h
    exact ⟨_, h, State.faults_runRecord_raises s (.instr i) _ _⟩

end

/-- Settles O22: each meaning runs the store rule at its size. -/
theorem storesWriteBigEndianBytes : Obligations.StoresWriteBigEndianBytes := fun rt rn _ disp _ _ hm =>
  ⟨⟨hasShape_row (.sturb rt rn disp), storesOrFaults_of_exec_eq (size := .byte) hm rfl⟩,
    ⟨hasShape_row (.sturh rt rn disp), storesOrFaults_of_exec_eq (size := .half) hm rfl⟩,
    ⟨hasShape_row (.sturw rt rn disp), storesOrFaults_of_exec_eq (size := .word) hm rfl⟩,
    ⟨hasShape_row (.stur rt rn disp), storesOrFaults_of_exec_eq (size := .double) hm rfl⟩,
    ⟨hasShape_row (.stxr rt rn disp), storesOrFaults_of_exec_eq (size := .double) hm rfl⟩⟩

/-- The extension of LDURSW on a 32-bit number (R237). -/
theorem signExtendLoaded_setWidth (x : BitVec 32) : signExtendLoaded (x.setWidth 64) = x.signExtend 64 := by
  rw [signExtendLoaded, sext64, BitVec.setWidth_setWidth_of_le x (by decide), BitVec.setWidth_eq]

/-- Settles O23: each meaning runs the load rule at its size, and the number read is the concatenation of its bytes. -/
theorem loadsReadBigEndianBytes : Obligations.LoadsReadBigEndianBytes := by
  rintro rt rn - disp s a byte - rfl hbyte
  have hword := (congrArg signExtendLoaded (Memory.readBE_four hbyte)).trans (signExtendLoaded_setWidth _)
  exact ⟨⟨hasShape_row (.ldurb rt rn disp), loadsOrFaults_of_exec_eq (size := .byte) rfl (Memory.readBE_one hbyte)⟩,
    ⟨hasShape_row (.ldurh rt rn disp), loadsOrFaults_of_exec_eq (size := .half) rfl (Memory.readBE_two hbyte)⟩,
    ⟨hasShape_row (.ldursw rt rn disp), loadsOrFaults_of_exec_eq (size := .word) rfl hword⟩,
    ⟨hasShape_row (.ldur rt rn disp), loadsOrFaults_of_exec_eq (size := .double) rfl (Memory.readBE_eight hbyte)⟩,
    ⟨hasShape_row (.ldxr rt rn disp), loadsOrFaults_of_exec_eq (size := .double) rfl (Memory.readBE_eight hbyte)⟩⟩

/-! ## A store, then a load of the same size at the same address (R242) -/

/-- No access is longer than a register. -/
theorem Size.bytes_le_eight (size : Size) : size.bytes ≤ 8 := by
  cases size <;> decide

/-- The load finds the registers and the range of the store's state, and in memory the bytes of the stored value. -/
theorem writesReg_of_store_load {store load : Instr} {s : State} {rt rn rt' rn' : RegIdx} {disp disp' : Word} {size : Size}
    {ext : Word → Word} {v : Word} (hstore : exec store s = runInstr store (storeRule s size disp (s.reg rn) (s.reg rt)) s)
    (hload : ∀ t, exec load t = runInstr load (loadRule t size ext rt' disp' (t.reg rn')) t)
    (hv : ext (((s.reg rt).setWidth (8 * size.bytes)).setWidth 64) = v) (hm : s.dmem.wf)
    (haddr : effectiveAddr (s.reg rn) disp = effectiveAddr (s.reg rn') disp')
    (hin : (effectiveAddr (s.reg rn) disp).toNat + size.bytes ≤ s.params.dmemBytes) :
    ∃ t u, exec store s = .next t ∧ exec load t = .next u ∧ WritesReg t u rt' v := by
  obtain ⟨stores, -⟩ := storesOrFaults_of_exec_eq hm hstore
  obtain ⟨t, ht, hst⟩ := stores hin
  obtain ⟨hbytes, -⟩ := hst.memory
  have haddr' : effectiveAddr (t.reg rn') disp' = effectiveAddr (s.reg rn) disp := by rw [hst.regs, haddr]
  have hread : ext (t.dmem.readBE (effectiveAddr (t.reg rn') disp').toNat size.bytes) = v := by
    rw [haddr', Memory.readBE_storedBytes size.bytes_le_eight hbytes, hv]
  obtain ⟨loads, -⟩ := loadsOrFaults_of_exec_eq (hload t) hread
  obtain ⟨u, hu, hld⟩ := loads (by rw [haddr', hst.params]; exact hin)
  exact ⟨t, u, ht, hu, hld.regs⟩

/-- Settles O24: each pair is the store rule and the load rule at one size. -/
theorem storeThenLoadReturnsTheLowBits : Obligations.StoreThenLoadReturnsTheLowBits := by
  intro rt rn rt' rn' disp disp' s n store load v hm haddr hin h
  have hwhole : ((s.reg rt).setWidth 64).setWidth 64 = s.reg rt := by rw [BitVec.setWidth_eq, BitVec.setWidth_eq]
  obtain h | h | h | h | h := h <;> cases h
  case inl => exact writesReg_of_store_load (size := .byte) (ext := id) rfl (fun _ => rfl) rfl hm haddr hin
  case inr.inl => exact writesReg_of_store_load (size := .half) (ext := id) rfl (fun _ => rfl) rfl hm haddr hin
  case inr.inr.inl =>
    exact writesReg_of_store_load (size := .word) rfl (fun _ => rfl) (signExtendLoaded_setWidth _) hm haddr hin
  case inr.inr.inr.inl => exact writesReg_of_store_load (size := .double) (ext := id) rfl (fun _ => rfl) hwhole hm haddr hin
  case inr.inr.inr.inr => exact writesReg_of_store_load (size := .double) (ext := id) rfl (fun _ => rfl) hwhole hm haddr hin

end Sys2Proof.Machine

/-! SUPPORT. EXIT, unrecognized words, invalid fetches and bubbles (45_system.md R260 to R263): what the record at the PC is,
what its sequential instruction leaves behind, and what the hazard step moves. -/

namespace Sys2Proof.Machine

/-! ## EXIT (R260) -/

/-- An instruction whose rule answers the end of the program. -/
theorem State.ends_runRecord (s : State) (r : Record) : Ends s (s.runRecord r (.done { ended := true })) :=
  { State.retired_runRecord_done s r _ with
    regs := State.reg_runRecord_done s r _
    flags := by rw [State.runRecord_done]; rfl
    memory := fun a => by rw [State.runRecord_done]; rfl
    pc := by rw [State.runRecord_done]; rfl
    programEnded := by rw [State.runRecord_done]; simp }

/-- A state whose program has ended is halted (46_pipeline.md R288). -/
theorem Ends.halted {s t : State} (h : Ends s t) : t.halted = true := by
  rw [State.halted, h.programEnded, Bool.true_or]

/-- Settles O26: the rule of EXIT answers the end of the program and nothing else. -/
theorem exitEndsTheRun : Obligations.ExitEndsTheRun := fun s =>
  have hends := s.ends_runRecord (.instr .exit)
  ⟨hasShape_row .exit, _, rfl, hends, hends.halted⟩

/-! ## The record at the PC -/

/-- A fetch delivers no word exactly outside 1 to `IMEM_WORDS` (20_memory.md R63). -/
theorem imemRead_eq_none_iff {imem : List IWord} {i : Word} :
    imemRead imem i = none ↔ i = 0 ∨ imem.length < i.toNat := by
  unfold imemRead
  by_cases hzero : i = 0
  · simp [hzero]
  · have hpos : 0 < i.toNat := by bv_omega
    rw [if_neg hzero, List.getElem?_eq_none_iff]
    simp only [hzero, false_or]
    omega

section
variable {s : State}

theorem State.nextRecord_of_decode_error {w : IWord} {u : Unrecognized} (hw : imemRead s.imem s.pc = some w)
    (hu : decode w = .error u) : s.nextRecord = .unrecognized := by
  simp only [State.nextRecord, decodeFetched, hw, hu]

theorem State.nextRecord_of_out_of_range (h : s.pc = 0 ∨ s.imem.length < s.pc.toNat) :
    s.nextRecord = .invalidFetch := by
  rw [State.nextRecord, imemRead_eq_none_iff.mpr h, decodeFetched]

theorem State.seqInstruction_of_unrecognized (h : s.nextRecord = .unrecognized) :
    s.seqInstruction = .next (s.runRecord .unrecognized (.done (Effect.jump .notBranch))) := by
  rw [State.seqInstruction, h]
  rfl

theorem State.seqInstruction_of_invalidFetch (h : s.nextRecord = .invalidFetch) :
    s.seqInstruction = .next (s.runRecord .invalidFetch (.raises .fetchOutOfRange 0)) := by
  rw [State.seqInstruction, h]
  rfl

end

/-- Settles O27: the no-operation is an instruction that branches nowhere. -/
theorem unrecognizedWordIsANoOperation : Obligations.UnrecognizedWordIsANoOperation := by
  refine ⟨fun s w u hm hb hh hw hu => ?_, fun _ _ => rfl, rfl, rfl, rfl, rfl⟩
  rw [step_sequential s hm hb hh, State.seqInstruction_of_unrecognized (State.nextRecord_of_decode_error hw hu)]
  exact ⟨_, rfl, s.goesTo_runRecord .unrecognized .notBranch⟩

/-- Settles O28: the marker's rule raises, which halts the core; `program_ended` stays 0, as in any running core. -/
theorem invalidFetchFaultsAtExecute : Obligations.InvalidFetchFaultsAtExecute := by
  intro s hm hb hh hpc
  obtain ⟨hended, -⟩ := State.running_of_halted_eq_false hh
  rw [step_sequential s hm hb hh, State.seqInstruction_of_invalidFetch (State.nextRecord_of_out_of_range hpc)]
  have hfaults := s.faults_runRecord_raises .invalidFetch .fetchOutOfRange 0
  exact ⟨_, rfl, hfaults, hfaults.halted, hfaults.programEnded.trans hended⟩

/-! ## A bubble in E (R262) -/

/-- Whatever its outcome, the hazard step hands E to W and otherwise changes only D, E, the hazard flags and the branch latch
(47_hazards_forwarding.md R305, R306, R308, R310). -/
theorem State.hazardStep_moves_buffers (s : State) : ∃ d e n m t b, s.hazardStep =
    { s with
      decodeBuf := d
      executeBuf := e
      writebackBuf := s.executeBuf
      hzN := n
      hzM := m
      hzT := t
      branchTaken := b } := by
  obtain ⟨-, h⟩ | ⟨-, -, -, h⟩ | ⟨-, -, -, h⟩ | ⟨-, -, -, h⟩ := s.hazardStep_cases <;>
    exact ⟨_, _, _, _, _, _, h⟩

/-- Settles O42: the cycle is P1 to P3, the commit of W and the hazard step, none of which writes flags, memory,
`program_ended` or the fault, and of which only Fetch writes the PC; the bubble moves on to W. -/
theorem bubbleExecutesNothing : Obligations.BubbleExecutesNothing := by
  intro s hm hh he
  obtain ⟨-, hfault⟩ := State.running_of_halted_eq_false hh
  obtain ⟨d, e, n, m, t, b, hmoves⟩ := s.frontHalf.commitWriteback.countCycle.hazardStep_moves_buffers
  rw [step_of_bubble hm hh he, hmoves]
  exact ⟨_, rfl, by simp, by simp, by simp, by simpa using hfault, by simp [State.frontHalf_pc], by simpa using he⟩

end Sys2Proof.Machine

/-! SUPPORT. The step of a running pipelined core (46_pipeline.md R276): what the cycle answers by what E holds, and what
it does to the registers and the count in every case. -/

namespace Sys2Proof.Machine

/-! ## One cycle, by what E holds -/

/-- P1 to P3 change nothing that a rule reads. -/
theorem State.executeRecord_frontHalf (s : State) (e : ExecBuf) :
    executeRecord e.record e s.frontHalf = executeRecord e.record e s :=
  executeRecord_congr _ _ (by simp) (by simp) (by simp)

theorem State.executeLatched_done_fault (s : State) (e : ExecBuf) (eff : Effect) :
    (s.executeLatched e (.done eff)).fault = s.fault := rfl

/-- A fault ends the cycle without the hazard step (R282). -/
theorem State.finishCycle_of_fault {s : State} (h : s.fault.isSome = true) :
    s.finishCycle = s.commitWriteback.countCycle := by
  rw [State.finishCycle, if_pos h]

section
variable {s : State} {e : ExecBuf} (hm : s.params.mode = .pipelined) (hh : s.halted = false)
  (he : s.executeBuf = some e)
include hm hh he

/-- With an instruction in E whose rule answers, the cycle goes on with that answer. -/
theorem step_of_executed {x : Executed} (hx : executeRecord e.record e s = some x) :
    step s = .next (s.frontHalf.executeLatched e x).finishCycle := by
  have he' : s.frontHalf.executeBuf = some e := by simpa using he
  rw [step_pipelined s hm hh, State.pipeCycle, State.executeStep, he']
  simp only [State.executeRecord_frontHalf, hx]

/-- A rule that completes: the hazard step runs last. -/
theorem step_of_done {eff : Effect} (hx : executeRecord e.record e s = some (.done eff)) :
    step s = .next (s.frontHalf.executeLatched e (.done eff)).commitWriteback.countCycle.hazardStep := by
  have hfault : (s.frontHalf.executeLatched e (.done eff)).fault = none := by
    simpa [State.executeLatched_done_fault] using (State.running_of_halted_eq_false hh).2
  rw [step_of_executed hm hh he hx, State.finishCycle_of_no_fault hfault]

/-- A rule that raises: the cycle ends with its count. -/
theorem step_of_raises {c : Fault} {info : Word} (hx : executeRecord e.record e s = some (.raises c info)) :
    step s = .next (s.frontHalf.executeLatched e (.raises c info)).commitWriteback.countCycle := by
  have hfault : (s.frontHalf.executeLatched e (.raises c info)).fault.isSome = true := by
    rw [State.executeLatched_raises]; rfl
  rw [step_of_executed hm hh he hx, State.finishCycle_of_fault hfault]

end

/-- What one cycle of a running pipelined core can answer. -/
inductive PipeCycle (s : State) : State → Prop where
  | bubble (empty : s.executeBuf = none) : PipeCycle s s.frontHalf.commitWriteback.countCycle.hazardStep
  | done (e : ExecBuf) (eff : Effect) (holds : s.executeBuf = some e)
      (answer : executeRecord e.record e s = some (.done eff)) :
      PipeCycle s (s.frontHalf.executeLatched e (.done eff)).commitWriteback.countCycle.hazardStep
  | raises (e : ExecBuf) (c : Fault) (info : Word) (holds : s.executeBuf = some e)
      (answer : executeRecord e.record e s = some (.raises c info)) :
      PipeCycle s (s.frontHalf.executeLatched e (.raises c info)).commitWriteback.countCycle

theorem pipeCycle_of_step {s t : State} (hm : s.params.mode = .pipelined) (hh : s.halted = false)
    (h : step s = .next t) : PipeCycle s t := by
  cases he : s.executeBuf with
  | none => cases (step_of_bubble hm hh he).symm.trans h; exact .bubble he
  | some e =>
    cases hx : executeRecord e.record e s with
    | some x =>
      cases x with
      | done eff => cases (step_of_done hm hh he hx).symm.trans h; exact .done e eff he hx
      | raises c info => cases (step_of_raises hm hh he hx).symm.trans h; exact .raises e c info he hx
    | none =>
      have he' : s.frontHalf.executeBuf = some e := by simpa using he
      rw [step_pipelined s hm hh, State.pipeCycle, State.executeStep, he'] at h
      simp only [State.executeRecord_frontHalf, hx] at h
      cases h

/-! ## What every outcome of the hazard step leaves alone -/

section
variable (s : State)

@[simp] theorem State.hazardStep_params : s.hazardStep.params = s.params := s.keepsProgram_hazardStep.params
@[simp] theorem State.hazardStep_imem : s.hazardStep.imem = s.imem := s.keepsProgram_hazardStep.imem

@[simp] theorem State.hazardStep_regs : s.hazardStep.regs = s.regs := by
  obtain ⟨d, e, n, m, t, b, h⟩ := s.hazardStep_moves_buffers; rw [h]
@[simp] theorem State.hazardStep_pc : s.hazardStep.pc = s.pc := by
  obtain ⟨d, e, n, m, t, b, h⟩ := s.hazardStep_moves_buffers; rw [h]
@[simp] theorem State.hazardStep_flags : s.hazardStep.flags = s.flags := by
  obtain ⟨d, e, n, m, t, b, h⟩ := s.hazardStep_moves_buffers; rw [h]
@[simp] theorem State.hazardStep_dmem : s.hazardStep.dmem = s.dmem := by
  obtain ⟨d, e, n, m, t, b, h⟩ := s.hazardStep_moves_buffers; rw [h]
@[simp] theorem State.hazardStep_writebackBuf : s.hazardStep.writebackBuf = s.executeBuf := by
  obtain ⟨d, e, n, m, t, b, h⟩ := s.hazardStep_moves_buffers; rw [h]
@[simp] theorem State.hazardStep_programEnded : s.hazardStep.programEnded = s.programEnded := by
  obtain ⟨d, e, n, m, t, b, h⟩ := s.hazardStep_moves_buffers; rw [h]
@[simp] theorem State.hazardStep_cycleCount : s.hazardStep.cycleCount = s.cycleCount := by
  obtain ⟨d, e, n, m, t, b, h⟩ := s.hazardStep_moves_buffers; rw [h]
@[simp] theorem State.hazardStep_fault : s.hazardStep.fault = s.fault := by
  obtain ⟨d, e, n, m, t, b, h⟩ := s.hazardStep_moves_buffers; rw [h]

end

/-! ## The commit of W -/

/-- The register file after the commit of W depends on the register file and W alone. -/
theorem State.commitWriteback_regs_congr {s t : State} (hr : s.regs = t.regs) (hw : s.writebackBuf = t.writebackBuf) :
    s.commitWriteback.regs = t.commitWriteback.regs := by
  unfold State.commitWriteback
  rw [hw]
  cases t.writebackBuf with
  | none => exact hr
  | some w => exact State.commit_regs_congr hr w.wb

theorem State.commitWriteback_of_none {s : State} (h : s.writebackBuf = none) : s.commitWriteback = s := by
  rw [State.commitWriteback, h]

theorem State.commitWriteback_of_some {s : State} {w : ExecBuf} (h : s.writebackBuf = some w) :
    s.commitWriteback = s.commit w.wb := by
  rw [State.commitWriteback, h]

/-- Execute writes no register: the registers after the cycle are those after the commit of the old W (R280, R284). -/
theorem PipeCycle.regs_eq {s t : State} (h : PipeCycle s t) : t.regs = s.commitWriteback.regs := by
  cases h with
  | bubble => simpa using State.commitWriteback_regs_congr s.frontHalf_regs s.frontHalf_writebackBuf
  | done e eff =>
    rw [State.hazardStep_regs]
    exact State.commitWriteback_regs_congr s.frontHalf_regs s.frontHalf_writebackBuf
  | raises e c info =>
    rw [State.executeLatched_raises]
    exact State.commitWriteback_regs_congr s.frontHalf_regs s.frontHalf_writebackBuf

theorem PipeCycle.reg_eq {s t : State} (h : PipeCycle s t) (r : RegIdx) : t.reg r = s.commitWriteback.reg r :=
  State.reg_congr h.regs_eq r

/-- P6 counts every cycle (R285). -/
theorem PipeCycle.cycleCount_eq {s t : State} (h : PipeCycle s t) : t.cycleCount = s.cycleCount + 1 := by
  cases h with
  | bubble => simp
  | done e eff => simp [State.executeLatched_done]
  | raises e c info => simp [State.executeLatched_raises]

/-! ## The statements about one cycle -/

/-- Settles O39: the fields of the cycle that completes the instruction in E (`step_of_done`). -/
theorem pipelinedCycleExecutesTheInstructionInE : Obligations.PipelinedCycleExecutesTheInstructionInE := by
  intro s e eff hm hh he hx
  obtain ⟨hended, hfault⟩ := State.running_of_halted_eq_false hh
  have cycle : PipeCycle s _ := .done e eff he hx
  refine ⟨_, step_of_done hm hh he hx, ?_, ?_, ?_, ?_, ?_, ?_, cycle.reg_eq, cycle.cycleCount_eq⟩ <;>
    simp [State.executeLatched_done, State.frontHalf_pc, hended, hfault]

/-- A pipelined core that is halted takes no step (R288). -/
theorem step_of_halted_pipelined {s : State} (hm : s.params.mode = .pipelined) (hh : s.halted = true) :
    step s = .next s := by
  rw [step, hm]
  exact if_pos hh

/-- A fault halts the core. -/
theorem State.halted_executeLatched_raises (s : State) (e : ExecBuf) (c : Fault) (info : Word) :
    (s.executeLatched e (.raises c info)).commitWriteback.countCycle.halted = true := by
  simp [State.halted, State.executeLatched_raises]

/-- Settles O40: the cycle that faults (`step_of_raises`) stores the record, commits and counts, and halts the core. -/
theorem pipelinedFaultIsPrecise : Obligations.PipelinedFaultIsPrecise := by
  intro s e c info hm hh he hx
  obtain ⟨hended, -⟩ := State.running_of_halted_eq_false hh
  have cycle : PipeCycle s _ := .raises e c info he hx
  have hhalted := s.frontHalf.halted_executeLatched_raises e c info
  refine ⟨_, step_of_raises hm hh he hx, ?_, hhalted, cycle.reg_eq, ?_, ?_, ?_, ?_, ?_, ?_, ?_, cycle.cycleCount_eq,
    ?_, ?_, step_of_halted_pipelined (by simpa using hm) hhalted⟩ <;>
    simp [State.executeLatched_raises, State.frontHalf_pc, hended, he]

/-- Settles O41: the registers after a cycle are those after the commit of W (`PipeCycle.reg_eq`). -/
theorem registersChangeOnlyByWriteback : Obligations.RegistersChangeOnlyByWriteback := by
  intro s t hm hh h
  have hreg := (pipeCycle_of_step hm hh h).reg_eq
  refine ⟨fun hw r => ?_, fun w hw => ⟨fun hq r => ?_, fun q hq => ?_⟩⟩
  · rw [hreg, State.commitWriteback_of_none hw]
  · rw [hreg, State.commitWriteback_of_some hw, hq, State.commit]
  · refine State.writesReg_of_wb s t q.reg q.value fun r => ?_
    rw [hreg, State.commitWriteback_of_some hw, hq]

end Sys2Proof.Machine

/-! SUPPORT. The step in both modes: what halts it (46_pipeline.md R270, R288), that it always answers a next state (R290),
and the two granularities of sequential mode (R272). -/

namespace Sys2Proof.Machine

/-! ## A halted core -/

/-- A core with a fault recorded is stopped in sequential mode. -/
theorem State.seqStopped_of_fault {s : State} (h : s.fault ≠ none) : s.seqStopped = true := by
  rw [State.seqStopped, Option.isSome_iff_ne_none.mpr h, Bool.true_or]

/-- A core whose program has ended is stopped in sequential mode once it is at an instruction boundary. -/
theorem State.seqStopped_of_ended {s : State} (h : s.programEnded = true) (hb : s.atBoundary = true) :
    s.seqStopped = true := by
  rw [State.seqStopped, h, hb, Bool.true_and, Bool.or_true]

theorem step_of_seqStopped {s : State} (hm : s.params.mode = .sequential) (h : s.seqStopped = true) :
    step s = .next s := by
  rw [step, hm]
  exact if_pos h

theorem State.halted_of_fault {s : State} (h : s.fault ≠ none) : s.halted = true := by
  rw [State.halted, Option.isSome_iff_ne_none.mpr h, Bool.or_true]

theorem State.halted_of_ended {s : State} (h : s.programEnded = true) : s.halted = true := by
  rw [State.halted, h, Bool.true_or]

theorem State.fault_or_ended_of_halted {s : State} (h : s.halted = true) : s.fault ≠ none ∨ s.programEnded = true := by
  rw [State.halted, Bool.or_eq_true, Option.isSome_iff_ne_none] at h
  exact h.symm

/-- Settles O51: mode by mode. -/
theorem haltedCoreTakesNoStep : Obligations.HaltedCoreTakesNoStep := by
  intro s h
  cases hm : s.params.mode with
  | pipelined =>
    obtain hfault | ⟨hended, -⟩ := h
    · exact step_of_halted_pipelined hm (State.halted_of_fault hfault)
    · exact step_of_halted_pipelined hm (State.halted_of_ended hended)
  | sequential =>
    obtain hfault | ⟨hended, hp | hb⟩ := h
    · exact step_of_seqStopped hm (State.seqStopped_of_fault hfault)
    · cases hm.symm.trans hp
    · exact step_of_seqStopped hm (State.seqStopped_of_ended hended hb)

/-! ## The instruction at the PC -/

/-- Settles O35. -/
theorem sequentialStepRunsTheDecodedInstruction : Obligations.SequentialStepRunsTheDecodedInstruction := by
  intro s w i hm hb hh hw hi
  have hrec : s.nextRecord = .instr i := by simp only [State.nextRecord, decodeFetched, hw, hi]
  rw [step_sequential s hm hb hh, State.seqInstruction, hrec]

/-- Settles O38. -/
theorem meaningIsTheExecuteStagesRule : Obligations.MeaningIsTheExecuteStagesRule := exec_eq_runRecord

/-! ## Execute answers on resolved operands (10_state.md R38) -/

section
variable {e : ExecBuf}

theorem ExecBuf.withN_answers (hn : e.vn.isSome = true) (rule : Word → Executed) : ∃ x, e.withN rule = some x := by
  obtain ⟨a, ha⟩ := Option.isSome_iff_exists.mp hn
  exact ⟨rule a, by rw [ExecBuf.withN, ha]⟩

theorem ExecBuf.withT_answers (ht : e.vt.isSome = true) (rule : Word → Executed) : ∃ x, e.withT rule = some x := by
  obtain ⟨a, ha⟩ := Option.isSome_iff_exists.mp ht
  exact ⟨rule a, by rw [ExecBuf.withT, ha]⟩

theorem ExecBuf.withNM_answers (hn : e.vn.isSome = true) (hm : e.vm.isSome = true) (rule : Word → Word → Executed) :
    ∃ x, e.withNM rule = some x := by
  obtain ⟨a, ha⟩ := Option.isSome_iff_exists.mp hn
  obtain ⟨b, hb⟩ := Option.isSome_iff_exists.mp hm
  exact ⟨rule a b, by rw [ExecBuf.withNM, ha, hb]⟩

theorem ExecBuf.withNT_answers (hn : e.vn.isSome = true) (ht : e.vt.isSome = true) (rule : Word → Word → Executed) :
    ∃ x, e.withNT rule = some x := by
  obtain ⟨a, ha⟩ := Option.isSome_iff_exists.mp hn
  obtain ⟨b, hb⟩ := Option.isSome_iff_exists.mp ht
  exact ⟨rule a b, by rw [ExecBuf.withNT, ha, hb]⟩

/-- The rule of an instruction asks for no operand but those on the paths that the instruction reads. -/
theorem executeInstr_answers {i : Instr} (s : State) (hn : e.vn.isSome = (readsN i).isSome)
    (hm : e.vm.isSome = (readsM i).isSome) (ht : e.vt.isSome = (readsT i).isSome) : ∃ x, executeInstr i e s = some x := by
  cases i with
  | and | add | orr | eor | sub | mul | smulh | umulh | adds | ands | subs | sdiv | udiv =>
    exact ExecBuf.withNM_answers hn hm _
  | addi | andi | orri | subi | eori | lsl | lsr | addis | subis | andis | br | ldurb | ldurh | ldursw | ldur | ldxr =>
    exact ExecBuf.withN_answers hn _
  | movk | cbz | cbnz => exact ExecBuf.withT_answers ht _
  | sturb | sturh | sturw | stur | stxr => exact ExecBuf.withNT_answers hn ht _
  | movz | b | bl | bCond | exit => exact ⟨_, rfl⟩

theorem executeRecord_answers (h : e.OperandsReady) (s : State) : ∃ x, executeRecord e.record e s = some x := by
  obtain ⟨hn, hm, ht⟩ := h
  cases hr : e.record with
  | instr i => rw [hr] at hn hm ht; exact executeInstr_answers s hn hm ht
  | unrecognized | invalidFetch => exact ⟨_, rfl⟩

end

/-! ## Every step answers a next state (R290) -/

theorem State.seqApply_answers {s : State} (h : s.ExecuteReady) : ∃ t, s.seqApply = .next t := by
  unfold State.seqApply
  cases he : s.executeBuf with
  | none => exact ⟨s, rfl⟩
  | some e =>
    obtain ⟨x, hx⟩ := executeRecord_answers (h e he) s
    exact ⟨s.executeWith e x, by simp only [hx]⟩

/-- S3 loads the operands that it applies, so no cycle of sequential mode lacks one. -/
theorem State.seqCycle_answers (s : State) : ∃ t, s.seqCycle = .next t := by
  unfold State.seqCycle
  split
  · exact ⟨_, rfl⟩
  · cases s.seqPhase with
    | fetch | decode | writeback => exact ⟨_, rfl⟩
    | execute => exact State.seqApply_answers s.executeReady_seqLoad

theorem State.seqCycles_answers (n : Nat) (s : State) : ∃ t, s.seqCycles n = .next t := by
  induction n generalizing s with
  | zero => exact ⟨s, rfl⟩
  | succ k ih =>
    obtain ⟨u, hu⟩ := s.seqCycle_answers
    obtain ⟨t, ht⟩ := ih u
    exact ⟨t, by rw [State.seqCycles, hu]; exact ht⟩

theorem State.seqStep_answers (s : State) : ∃ t, s.seqStep = .next t := by
  unfold State.seqStep
  split
  · exact ⟨_, rfl⟩
  · split
    · obtain ⟨x, -, hrun⟩ := s.seqInstruction_eq_runRecord
      exact ⟨_, hrun⟩
    · exact s.seqCycles_answers _

/-- A pipelined core whose E buffer holds its operands answers a next state, halted or not. -/
theorem step_answers_pipelined {s : State} (hm : s.params.mode = .pipelined) (h : s.ExecuteReady) :
    ∃ t, step s = .next t := by
  cases hh : s.halted with
  | true => exact ⟨s, step_of_halted_pipelined hm hh⟩
  | false =>
    cases he : s.executeBuf with
    | none => exact ⟨_, step_of_bubble hm hh he⟩
    | some e =>
      obtain ⟨x, hx⟩ := executeRecord_answers (h e he) s
      exact ⟨_, step_of_executed hm hh he hx⟩

/-- Settles O57: only a missing operand could stop a step, and the invariant has every operand in its place. -/
theorem everyStepAnswersANextState : Obligations.EveryStepAnswersANextState := by
  intro s h
  cases hm : s.params.mode with
  | sequential => rw [step, hm]; exact s.seqStep_answers
  | pipelined => exact step_answers_pipelined hm h.operands

/-! ## Four stages are one instruction (R272) -/

/-- The three buffers at an instruction boundary. -/
theorem State.empty_of_atBoundary {s : State} (h : s.atBoundary = true) :
    s.executeBuf = none ∧ s.decodeBuf = none ∧ s.fetchBuf = none := by
  simp only [State.atBoundary, State.seqPhase, beq_iff_eq] at h
  cases he : s.executeBuf <;> cases hd : s.decodeBuf <;> cases hf : s.fetchBuf <;> simp [he, hd, hf] at h ⊢

/-- S1, S2 and the loading half of S3 issue the record at the PC. -/
theorem State.seqLoad_seqDecode_seqFetch {s : State} : s.seqFetch.seqDecode.seqLoad = s.issue s.nextRecord := rfl

theorem State.seqCycles_succ {s t : State} (h : s.seqCycle = .next t) (n : Nat) :
    s.seqCycles (n + 1) = t.seqCycles n := by
  rw [State.seqCycles, h, andThen]

theorem State.seqStopped_of_running {s : State} (h : s.Running) : s.seqStopped = false := by
  rw [State.seqStopped, h.1, h.2]
  rfl

/-! One equation of `seqCycle` per stage. -/

section
variable {s : State} (h : s.seqStopped = false)
include h

theorem State.seqCycle_of_fetch (hp : s.seqPhase = .fetch) : s.seqCycle = .next s.seqFetch := by
  rw [State.seqCycle, h, hp]; rfl

theorem State.seqCycle_of_decode (hp : s.seqPhase = .decode) : s.seqCycle = .next s.seqDecode := by
  rw [State.seqCycle, h, hp]; rfl

theorem State.seqCycle_of_execute (hp : s.seqPhase = .execute) : s.seqCycle = s.seqLoad.seqApply := by
  rw [State.seqCycle, h, hp]; rfl

theorem State.seqCycle_of_writeback (hp : s.seqPhase = .writeback) : s.seqCycle = .next s.seqWriteback := by
  rw [State.seqCycle, h, hp]; rfl

end

/-- The first three stages run the rule of the record at the PC. -/
theorem State.seqCycles_three {s : State} {x : Executed} (hb : s.atBoundary = true) (hrun : s.Running)
    (hx : executeRecord s.nextRecord (s.loadOperands s.nextRecord s.pc) s = some x) (n : Nat) :
    s.seqCycles (n + 3) = ((s.issue s.nextRecord).executeWith (s.loadOperands s.nextRecord s.pc) x).seqCycles n := by
  obtain ⟨he, hd, hf⟩ := State.empty_of_atBoundary hb
  have fetch : s.seqCycle = .next s.seqFetch :=
    State.seqCycle_of_fetch (State.seqStopped_of_running hrun) (by simp [State.seqPhase, he, hd, hf])
  have decode : s.seqFetch.seqCycle = .next s.seqFetch.seqDecode :=
    State.seqCycle_of_decode (State.seqStopped_of_running (s := s.seqFetch) hrun)
      (by simp [State.seqPhase, State.seqFetch, he, hd])
  have execute : s.seqFetch.seqDecode.seqCycle =
      .next ((s.issue s.nextRecord).executeWith (s.loadOperands s.nextRecord s.pc) x) := by
    have hx' : executeRecord s.nextRecord (s.loadOperands s.nextRecord s.pc) (s.issue s.nextRecord) = some x :=
      (executeRecord_congr _ _ rfl rfl rfl).trans hx
    have hrec : (s.loadOperands s.nextRecord s.pc).record = s.nextRecord := rfl
    rw [State.seqCycle_of_execute (State.seqStopped_of_running (s := s.seqFetch.seqDecode) hrun)
      (by simp [State.seqPhase, State.seqDecode, State.seqFetch, he])]
    simp only [State.seqLoad_seqDecode_seqFetch, State.seqApply, State.issue_executeBuf, hrec, hx']
  rw [State.seqCycles_succ fetch, State.seqCycles_succ decode, State.seqCycles_succ execute]

/-- S4 of an instruction that completed: E is occupied and there is no fault, so the stage runs. -/
theorem State.seqCycles_one_of_executed {s : State} {e : ExecBuf} (he : s.executeBuf = some e) (hf : s.fault = none) :
    s.seqCycles 1 = .next s.seqWriteback := by
  have hphase : s.seqPhase = .writeback := by simp [State.seqPhase, he]
  have hstop : s.seqStopped = false := by simp [State.seqStopped, State.atBoundary, hf, hphase]
  exact State.seqCycles_succ (State.seqCycle_of_writeback hstop hphase) 0

/-- The fourth cycle after a fault does nothing. -/
theorem State.seqCycles_one_of_fault {s : State} (h : s.fault ≠ none) : s.seqCycles 1 = .next s :=
  State.seqCycles_succ (if_pos (State.seqStopped_of_fault h)) 0

/-- Settles O37: the first three stages are the issue of the record and its rule; the fourth is S4, or nothing after a
fault. -/
theorem fourStageCyclesAreOneInstruction : Obligations.FourStageCyclesAreOneInstruction := by
  intro s hb hh
  have hrun := State.running_of_halted_eq_false hh
  obtain ⟨x, hx, hinstr⟩ := s.seqInstruction_eq_runRecord
  have three := State.seqCycles_three hb hrun hx
  cases x with
  | done eff =>
    have hfault : (s.runRecord s.nextRecord (.done eff)).fault = none := by
      rw [State.runRecord_done]; exact hrun.2
    refine ⟨_, hinstr, ?_, fun _ => by rw [State.runRecord_done], fun h => absurd hfault h⟩
    rw [three 1]
    exact State.seqCycles_one_of_executed (State.executeBuf_executeWith_done _ _ eff) hrun.2
  | raises c info =>
    have hfaults := s.faults_runRecord_raises s.nextRecord c info
    have hfault : (s.runRecord s.nextRecord (.raises c info)).fault ≠ none := by rw [hfaults.fault]; nofun
    refine ⟨_, hinstr, ?_, fun h => absurd h hfault, fun _ => ⟨three 0, hfaults.cycleCount⟩⟩
    rw [three 1]
    exact State.seqCycles_one_of_fault hfault

/-! ## Cycles (R272, R285, R341) -/

/-- A sequential instruction counts four cycles, three if it faults. -/
theorem State.cycleCount_runRecord {s : State} (hf : s.fault = none) (r : Record) (x : Executed) :
    (s.runRecord r x).cycleCount = s.cycleCount + if (s.runRecord r x).fault.isSome then 3 else 4 := by
  cases x with
  | done eff => rw [State.runRecord_done]; simp [hf]
  | raises c info => rfl

/-- Settles O52: mode by mode. -/
theorem cycleCountIncrements : Obligations.CycleCountIncrements := by
  intro s t h
  refine ⟨fun hh hrest => ?_, fun hh hm => (pipeCycle_of_step hm hh h).cycleCount_eq, fun hh hm hb => ?_⟩
  · have hstays : step s = .next s :=
      haltedCoreTakesNoStep s ((State.fault_or_ended_of_halted hh).imp_right fun hended => ⟨hended, hrest⟩)
    cases hstays.symm.trans h
    rfl
  · obtain ⟨x, -, hinstr⟩ := s.seqInstruction_eq_runRecord
    rw [step_sequential s hm hb hh, hinstr] at h
    cases h
    exact State.cycleCount_runRecord (State.running_of_halted_eq_false hh).2 _ x

end Sys2Proof.Machine

/-! SUPPORT. The pipeline's invariant (46_pipeline.md R287, 47_hazards_forwarding.md R306 to R315) along one cycle under
HAZARD_SCOPE full: what P1 to P3 leave in D, what the hazard step finds after Execute, and what it leaves behind. -/

namespace Sys2Proof.Machine

/-! ## Three stages ahead -/

/-- No stall is pending while E holds an instruction. -/
theorem PipeInv.anyHazard_eq_false {s : State} {e : ExecBuf} (h : PipeInv s) (he : s.executeBuf = some e) :
    s.anyHazard = false := by
  refine Bool.eq_false_iff.mpr fun hz => ?_
  cases (h.heldExecute hz).symm.trans he

/-- Settles O49: Fetch is not held, D is one ahead of E and the PC one ahead of D. -/
theorem pcAtExecuteIsThreeAhead : Obligations.PcAtExecuteIsThreeAhead := by
  intro s e h he
  have hz := h.anyHazard_eq_false he
  obtain ⟨d, hd, hipc⟩ := h.back hz e he
  rw [State.frontHalf_pc, hz, h.front hz d hd, hipc]
  simp only [Bool.false_eq_true, if_false]
  bv_omega

/-! ## Latched values -/

/-- What the latches of the held instruction `d` give is what the register file of `s` gives. -/
structure LatchesAgree (s : State) (d : DecodeBuf) : Prop where
  n : ∀ r, Record.readsN d.decoded = some r → d.fwdN.getD (s.reg r) = s.reg r
  m : ∀ r, Record.readsM d.decoded = some r → d.fwdM.getD (s.reg r) = s.reg r
  t : ∀ r, Record.readsT d.decoded = some r → d.fwdT.getD (s.reg r) = s.reg r

/-- Nothing is latched for `d`. -/
structure Unlatched (d : DecodeBuf) : Prop where
  n : d.fwdN = none
  m : d.fwdM = none
  t : d.fwdT = none

theorem Unlatched.latchesAgree {d : DecodeBuf} (h : Unlatched d) (s : State) : LatchesAgree s d where
  n _ _ := by rw [h.n]; rfl
  m _ _ := by rw [h.m]; rfl
  t _ _ := by rw [h.t]; rfl

theorem LatchesAgree.congr {s t : State} {d : DecodeBuf} (h : LatchesAgree s d) (hr : t.regs = s.regs) :
    LatchesAgree t d where
  n r hp := by rw [State.reg_congr hr]; exact h.n r hp
  m r hp := by rw [State.reg_congr hr]; exact h.m r hp
  t r hp := by rw [State.reg_congr hr]; exact h.t r hp

/-- What the mux can forward is what the register file holds after the commit of W (R311, R315). -/
theorem State.reg_commitWriteback_of_forwardable {s : State} {q : WriteReq} (h : s.forwardable = some q) :
    s.commitWriteback.reg q.reg = q.value := by
  unfold State.forwardable at h
  cases hw : s.writebackBuf with
  | none => simp [hw] at h
  | some w =>
    cases hq : w.wb with
    | none => simp [hw, hq] at h
    | some q' =>
      simp only [hw, hq, Option.ite_none_right_eq_some, Option.some.injEq] at h
      obtain ⟨⟨hreg, -⟩, rfl⟩ := h
      rw [State.commitWriteback_of_some hw, hq, State.reg_commit]
      exact if_pos ⟨rfl, hreg⟩

/-- One output of the mux on an empty latch, against the register it stands for. -/
theorem latchPath_getD {q : WriteReq} {reg : RegIdx → Word} (hq : reg q.reg = q.value) (select : Bool)
    {path : Option RegIdx} {r : RegIdx} (hp : path = some r) :
    (latchPath select path q none).getD (reg r) = reg r := by
  unfold latchPath
  split
  · next h =>
    obtain rfl : r = q.reg := Option.some.inj (hp.symm.trans h.2)
    rw [hq]; rfl
  · rfl

/-- The three latches of an instruction that had none (47_hazards_forwarding.md R315). -/
theorem State.latchesAgree_latch {s : State} {q : WriteReq} {d : DecodeBuf} (h : s.forwardable = some q)
    (hd : Unlatched d) : LatchesAgree s.commitWriteback (s.latch q d) := by
  have hq := State.reg_commitWriteback_of_forwardable h
  have hdec : (s.latch q d).decoded = d.decoded := rfl
  refine ⟨fun r hp => ?_, fun r hp => ?_, fun r hp => ?_⟩ <;> rw [hdec] at hp
  · rw [State.latch, hd.n]; exact latchPath_getD hq s.hzN hp
  · rw [State.latch, hd.m]; exact latchPath_getD hq s.hzM hp
  · rw [State.latch, hd.t]; exact latchPath_getD hq s.hzT hp

/-! ## D after P1 to P3 -/

/-- The instruction `d` of D as P2 and P3 of the cycle of `s` leave it: decoded, and with latches that agree with the
register file after the commit of W. -/
structure DecodedFrom (s : State) (d d' : DecodeBuf) : Prop where
  ipc : d'.ipc = d.ipc
  word : d'.word = d.word
  record : d'.record = some (decodeFetched d.word)
  latches : LatchesAgree s.commitWriteback d'
  unlatched : s.anyHazard = false → Unlatched d'

/-- The Forwarding step on an instruction with nothing latched. -/
theorem State.forwardStep_decodeBuf_of_some {s : State} {d : DecodeBuf} (hd : s.decodeBuf = some d) (hu : Unlatched d) :
    ∃ d', s.forwardStep.decodeBuf = some d' ∧ d'.ipc = d.ipc ∧ d'.word = d.word ∧ d'.record = d.record ∧
      LatchesAgree s.commitWriteback d' ∧ (s.anyHazard = false → Unlatched d') := by
  cases hz : s.anyHazard with
  | false => exact ⟨d, by simp [State.forwardStep, hz, hd], rfl, rfl, rfl, hu.latchesAgree _, fun _ => hu⟩
  | true =>
    cases hq : s.forwardable with
    | none =>
      exact ⟨d, by simp [State.forwardStep, State.forwardedDecode, hz, hq, hd], rfl, rfl, rfl, hu.latchesAgree _, nofun⟩
    | some q =>
      exact ⟨s.latch q d, by simp [State.forwardStep, State.forwardedDecode, hz, hq, hd], rfl, rfl, rfl,
        State.latchesAgree_latch hq hu, nofun⟩

theorem State.frontHalf_decodeBuf_of_some {s : State} {d : DecodeBuf} (hd : s.decodeBuf = some d) (hu : Unlatched d) :
    ∃ d', s.frontHalf.decodeBuf = some d' ∧ DecodedFrom s d d' := by
  have hd' : s.fetchStep.decodeStep.decodeBuf = some { d with record := some (decodeFetched d.word) } := by simp [hd]
  obtain ⟨d', hfront, hipc, hword, hrecord, hlatches, hunlatched⟩ :=
    State.forwardStep_decodeBuf_of_some hd' ⟨hu.n, hu.m, hu.t⟩
  have hregs : s.commitWriteback.regs = s.fetchStep.decodeStep.commitWriteback.regs :=
    State.commitWriteback_regs_congr (by simp) (by simp)
  exact ⟨d', hfront, hipc, hword, hrecord, hlatches.congr hregs,
    fun hz => hunlatched (by simpa [State.anyHazard] using hz)⟩

theorem DecodeExact.unlatched {s : State} {d : DecodeBuf} (h : DecodeExact s d) : Unlatched d := ⟨h.fwdN, h.fwdM, h.fwdT⟩

/-! ## Dependencies under full (R303) -/

/-- The producer writes the register of the path, and the register is not 31. -/
def Record.feeds (producer : Record) (path : Option RegIdx) : Bool :=
  match Record.liveDest producer with
  | some d => path == some d
  | none => false

theorem rawOf_full (consumer producer : Record) :
    rawOf .full consumer producer =
      ⟨Record.feeds producer (Record.readsN consumer), Record.feeds producer (Record.readsM consumer),
        Record.feeds producer (Record.readsT consumer)⟩ := by
  unfold rawOf Record.feeds
  cases Record.liveDest producer <;> simp [scopeSeesNM, scopeSeesT]

theorem State.raw_of_full {s : State} {d : DecodeBuf} {e : ExecBuf} (hfull : s.params.hazardScope = .full)
    (hd : s.decodeBuf = some d) (he : s.executeBuf = some e) :
    s.raw = ⟨Record.feeds e.record (Record.readsN d.decoded), Record.feeds e.record (Record.readsM d.decoded),
      Record.feeds e.record (Record.readsT d.decoded)⟩ := by
  simp only [State.raw, hd, he, hfull, rawOf_full]

/-- A dependency needs an instruction in D and one in E. -/
theorem State.occupied_of_raw {s : State} (h : (s.raw.n || s.raw.m || s.raw.t) = true) :
    ∃ d e, s.decodeBuf = some d ∧ s.executeBuf = some e := by
  cases hd : s.decodeBuf with
  | none => simp [State.raw, hd] at h
  | some d =>
    cases he : s.executeBuf with
    | none => simp [State.raw, hd, he] at h
    | some e => exact ⟨d, e, rfl, rfl⟩

/-- The request of a producer changes no register that it does not feed. -/
theorem State.reg_commit_of_not_feeds {s : State} {wb : Option WriteReq} {p : Record} {r : RegIdx}
    (hdest : ∀ q, wb = some q → Record.dest p = some q.reg) (h : Record.feeds p (some r) = false) :
    (s.commit wb).reg r = s.reg r := by
  rw [State.reg_commit]
  cases wb with
  | none => rfl
  | some q =>
    refine if_neg ?_
    rintro ⟨rfl, hne⟩
    simp [Record.feeds, Record.liveDest, hdest q rfl, hne] at h

/-- An instruction asks to write its destination and no other register (R301). -/
theorem executeRecord_dest {r : Record} {e : ExecBuf} {s : State} {eff : Effect}
    (h : executeRecord r e s = some (.done eff)) : ∀ q, eff.wb = some q → Record.dest r = some q.reg := by
  intro q hq
  cases r with
  | unrecognized => cases h; cases hq
  | invalidFetch => cases h
  | instr i =>
    cases ruleAnswer_of_executeInstr h with
    | write rd v dest | writeFlags rd v f dest | load rt v a dest => cases hq; exact dest
    | link disp isBl => cases hq; rw [isBl]; rfl
    | store | jump | jumpClearing | endRun => cases hq

/-! ## What the hazard step finds -/

/-- The state `b` that the cycle of `s` hands to its hazard step, P1 to P6 having run without a fault. -/
structure AfterExecute (s b : State) : Prop where
  params : b.params = s.params
  imem : b.imem = s.imem
  regs : b.regs = s.commitWriteback.regs
  noHazard : b.anyHazard = false
  fetchBuf : b.fetchBuf = s.frontHalf.fetchBuf
  decodeBuf : b.decodeBuf = s.frontHalf.decodeBuf
  notTaken : b.branchTaken = false → s.branchTaken = false ∧ b.pc = s.frontHalf.pc
  execute : ∀ e, b.executeBuf = some e →
    s.executeBuf.isSome = true ∧ ∀ q, e.wb = some q → Record.dest e.record = some q.reg

/-- The same for a cycle with a bubble in E: Execute does nothing. -/
structure AfterBubble (s b : State) : Prop extends AfterExecute s b where
  executeBuf : b.executeBuf = none
  branchTaken : b.branchTaken = s.branchTaken
  pc : b.pc = s.frontHalf.pc

theorem State.afterBubble {s : State} (he : s.executeBuf = none) :
    AfterBubble s s.frontHalf.commitWriteback.countCycle where
  params := by simp
  imem := by simp
  regs := State.commitWriteback_regs_congr s.frontHalf_regs s.frontHalf_writebackBuf
  noHazard := by simp
  fetchBuf := by simp
  decodeBuf := by simp
  notTaken h := ⟨by simpa using h, by simp⟩
  execute e h := by simp [he] at h
  executeBuf := by simpa using he
  branchTaken := by simp
  pc := by simp

/-- A branch that is not taken leaves the PC. -/
theorem BranchOutcome.pcAfter_of_not_taken {b : BranchOutcome} (h : b.isTaken = false) (pc : Word) : b.pcAfter pc = pc := by
  cases b with
  | taken target => cases h
  | notTaken | notBranch => rfl

theorem State.afterExecute_done {s : State} {e : ExecBuf} {eff : Effect} (he : s.executeBuf = some e)
    (hx : executeRecord e.record e s = some (.done eff)) :
    AfterExecute s (s.frontHalf.executeLatched e (.done eff)).commitWriteback.countCycle where
  params := by simp
  imem := by simp
  regs := by
    rw [State.executeLatched_done]
    exact State.commitWriteback_regs_congr s.frontHalf_regs s.frontHalf_writebackBuf
  noHazard := by
    simpa [State.anyHazard, State.executeLatched_done] using s.frontHalf_anyHazard
  fetchBuf := by simp [State.executeLatched_done]
  decodeBuf := by simp [State.executeLatched_done]
  notTaken h := by
    obtain ⟨hs, hb⟩ : s.branchTaken = false ∧ eff.branch.isTaken = false := by
      simpa [State.executeLatched_done] using h
    exact ⟨hs, by simp [State.executeLatched_done, BranchOutcome.pcAfter_of_not_taken hb]⟩
  execute e' h := by
    obtain rfl : { e with wb := eff.wb } = e' := by simpa [State.executeLatched_done] using h
    exact ⟨by rw [he]; rfl, executeRecord_dest hx⟩

/-- The instruction in D, decoded, with what its latches give. -/
structure DecodeReady (b : State) (d : DecodeBuf) : Prop where
  word : d.word = imemRead b.imem d.ipc
  record : d.record = some (decodeFetched d.word)
  latches : LatchesAgree b d
  unlatched : ∀ e, b.executeBuf = some e → Unlatched d

/-- What the hazard step relies on: F holds the word of the next index, D an instruction ready to issue, and the request of
the instruction in E is for its destination. -/
structure HazardReady (b : State) : Prop where
  noHazard : b.anyHazard = false
  fetched : ∃ f, b.fetchBuf = some f ∧ f.word = imemRead b.imem f.ipc ∧
    (b.branchTaken = false → b.pc = f.ipc + 1 ∧ ∀ d, b.decodeBuf = some d → f.ipc = d.ipc + 1)
  decode : ∀ d, b.decodeBuf = some d → DecodeReady b d
  dest : ∀ e, b.executeBuf = some e → ∀ q, e.wb = some q → Record.dest e.record = some q.reg

/-- D after P1 to P3 is the D of before, or both are bubbles. -/
theorem PipeInv.decodedFrom_of_frontHalf {s : State} (h : PipeInv s) {d' : DecodeBuf} (hd' : s.frontHalf.decodeBuf = some d') :
    ∃ d, s.decodeBuf = some d ∧ DecodedFrom s d d' := by
  cases hd : s.decodeBuf with
  | none => cases (State.frontHalf_decodeBuf_of_none hd).symm.trans hd'
  | some d =>
    obtain ⟨d'', hfront, hfrom⟩ := State.frontHalf_decodeBuf_of_some hd (h.decode d hd).unlatched
    cases hfront.symm.trans hd'
    exact ⟨d, rfl, hfrom⟩

/-- F after P1: the word that Fetch has just read, or the one behind the held instruction (R277, R307). -/
theorem PipeInv.fetched_frontHalf {s : State} (h : PipeInv s) :
    ∃ f, s.frontHalf.fetchBuf = some f ∧ f.word = imemRead s.imem f.ipc ∧
      (s.branchTaken = false → s.frontHalf.pc = f.ipc + 1 ∧ ∀ d, s.decodeBuf = some d → f.ipc = d.ipc + 1) := by
  rw [State.frontHalf_fetchBuf, State.frontHalf_pc]
  cases hz : s.anyHazard with
  | false => exact ⟨s.fetched, rfl, rfl, fun _ => ⟨rfl, h.front hz⟩⟩
  | true =>
    obtain ⟨d, f, hd, hf, hword, hnext⟩ := h.held hz
    refine ⟨f, hf, hword, fun hb => ?_⟩
    obtain ⟨hipc, hpc⟩ := hnext hb
    refine ⟨hpc, fun d' hd' => ?_⟩
    cases hd.symm.trans hd'
    exact hipc

theorem PipeInv.hazardReady {s b : State} (h : PipeInv s) (k : AfterExecute s b) : HazardReady b where
  noHazard := k.noHazard
  fetched := by
    obtain ⟨f, hf, hword, hnext⟩ := h.fetched_frontHalf
    refine ⟨f, k.fetchBuf.trans hf, by rw [k.imem]; exact hword, fun hb => ?_⟩
    obtain ⟨hs, hpc⟩ := k.notTaken hb
    obtain ⟨hpc', hipc⟩ := hnext hs
    refine ⟨hpc.trans hpc', fun d' hd' => ?_⟩
    obtain ⟨d, hd, hfrom⟩ := h.decodedFrom_of_frontHalf (k.decodeBuf.symm.trans hd')
    rw [hfrom.ipc]
    exact hipc d hd
  decode d' hd' := by
    obtain ⟨d, hd, hfrom⟩ := h.decodedFrom_of_frontHalf (k.decodeBuf.symm.trans hd')
    exact
      { word := by rw [hfrom.word, hfrom.ipc, k.imem]; exact (h.decode d hd).word
        record := by rw [hfrom.record, hfrom.word]
        latches := hfrom.latches.congr k.regs
        unlatched := fun e he => by
          obtain ⟨e', he'⟩ := Option.isSome_iff_exists.mp (k.execute e he).1
          exact hfrom.unlatched (h.anyHazard_eq_false he') }
  dest e he := (k.execute e he).2

/-! ## What the hazard step leaves behind -/

theorem DecodeReady.decoded_eq {b : State} {d : DecodeBuf} (h : DecodeReady b d) :
    d.decoded = decodeFetched (imemRead b.imem d.ipc) := by
  rw [DecodeBuf.decoded, h.record, Option.getD_some, h.word]

theorem DecodeReady.decodeExact {b : State} {d : DecodeBuf} {e : ExecBuf} (h : DecodeReady b d)
    (he : b.executeBuf = some e) : DecodeExact b d :=
  have hu := h.unlatched e he
  { word := h.word
    record := fun _ hr => Option.some.inj (hr.symm.trans h.record)
    fwdN := hu.n
    fwdM := hu.m
    fwdT := hu.t }

section
variable {b : State} (h : HazardReady b)
include h

/-- A stall holds the instruction in D and the word in F, and leaves a bubble in E (R306, R309). -/
theorem HazardReady.pipeInv_stallWith {n m t : Bool} {d : DecodeBuf} {e : ExecBuf} (hnmt : (n || m || t) = true)
    (hd : b.decodeBuf = some d) (he : b.executeBuf = some e) : PipeInv (b.stallWith n m t) := by
  have hz : (b.stallWith n m t).anyHazard = true := hnmt
  have exact_d := (h.decode d hd).decodeExact he
  obtain ⟨f, hf, hword, hnext⟩ := h.fetched
  exact
    { execute := fun _ he' => by cases he'
      decode := fun d' hd' => by
        cases hd.symm.trans hd'
        exact { exact_d with }
      flushed := fun hz' => by cases hz.symm.trans hz'
      front := fun hz' => by cases hz.symm.trans hz'
      back := fun hz' => by cases hz.symm.trans hz'
      heldExecute := fun _ => rfl
      held := fun _ => ⟨d, f, hd, hf, hword, fun hb =>
        have ⟨hpc, hipc⟩ := hnext hb
        ⟨hipc d hd, hpc⟩⟩ }

/-- After a flush only F is occupied (R308). -/
theorem HazardReady.pipeInv_flush : PipeInv b.flush where
  execute _ he := by cases he
  decode _ hd := by cases hd
  flushed _ := rfl
  front _ _ hd := by cases hd
  back _ _ he := by cases he
  heldExecute _ := rfl
  held hz := by cases h.noHazard.symm.trans hz

end

/-- A resolved operand is the register file's value in every state that has the path's register. -/
theorem State.resolvePath_eq {s t : State} {path : Option RegIdx} {fwd : Option Word}
    (hfwd : ∀ r, path = some r → fwd.getD (s.reg r) = s.reg r) (ht : ∀ r, path = some r → t.reg r = s.reg r) :
    s.resolvePath path fwd = t.resolvePath path none := by
  cases path with
  | none => rfl
  | some r => exact congrArg some ((hfwd r rfl).trans (ht r rfl).symm)

/-- Without a dependency on path `path`, the commit that the instruction in E asks for leaves the path's register. -/
theorem HazardReady.reg_advance {b : State} (h : HazardReady b) {path : Option RegIdx}
    (hpath : ∀ e, b.executeBuf = some e → Record.feeds e.record path = false) {r : RegIdx} (hr : path = some r) :
    b.advance.commitWriteback.reg r = b.reg r := by
  cases he : b.executeBuf with
  | none => rw [State.commitWriteback_of_none (s := b.advance) he]; rfl
  | some e =>
    rw [State.commitWriteback_of_some (s := b.advance) he]
    exact State.reg_commit_of_not_feeds (h.dest e he) (hr ▸ hpath e he)

section
variable {b : State} (h : HazardReady b) (hfull : b.params.hazardScope = .full) (hn : b.raw.n = false)
  (hm : b.raw.m = false) (ht : b.raw.t = false)
include h hfull hn hm ht

/-- An instruction that depends on nothing in E issues with the operands of the register file (R312, R315). -/
theorem HazardReady.executeExact_advance {d : DecodeBuf} (hd : b.decodeBuf = some d) :
    ExecuteExact b.advance (b.resolve d) := by
  have ready := h.decode d hd
  have hraw e (he : b.executeBuf = some e) := State.raw_of_full hfull hd he
  exact
    { record := ready.decoded_eq
      vn := State.resolvePath_eq ready.latches.n fun _ hr => h.reg_advance (fun e he => by rwa [hraw e he] at hn) hr
      vm := State.resolvePath_eq ready.latches.m fun _ hr => h.reg_advance (fun e he => by rwa [hraw e he] at hm) hr
      vt := State.resolvePath_eq ready.latches.t fun _ hr => h.reg_advance (fun e he => by rwa [hraw e he] at ht) hr
      wb := rfl }

/-- The default outcome moves every instruction one stage on (R310). -/
theorem HazardReady.pipeInv_advance (hb : b.branchTaken = false) : PipeInv b.advance := by
  have hz : b.advance.anyHazard = false := h.noHazard
  obtain ⟨f, hf, hword, hnext⟩ := h.fetched
  obtain ⟨hpc, hipc⟩ := hnext hb
  have hdec : b.advance.decodeBuf = some f.toDecode := by simp [hf]
  exact
    { execute := fun e he => by
        obtain ⟨d, hd, rfl⟩ := Option.map_eq_some_iff.mp he
        exact h.executeExact_advance hfull hn hm ht hd
      decode := fun d hd => by
        cases hdec.symm.trans hd
        exact ⟨hword, nofun, rfl, rfl, rfl⟩
      flushed := fun _ => hb
      front := fun _ d hd => by
        cases hdec.symm.trans hd
        exact hpc
      back := fun _ e he => by
        obtain ⟨d, hd, rfl⟩ := Option.map_eq_some_iff.mp he
        exact ⟨f.toDecode, hdec, hipc d hd⟩
      heldExecute := fun hz' => by cases hz.symm.trans hz'
      held := fun hz' => by cases hz.symm.trans hz' }

end

/-- Every outcome of the hazard step establishes the pipeline's invariant. -/
theorem HazardReady.pipeInv_hazardStep {b : State} (h : HazardReady b) (hfull : b.params.hazardScope = .full) :
    PipeInv b.hazardStep := by
  obtain ⟨hnm, hs⟩ | ⟨-, -, -, hs⟩ | ⟨-, -, ht, hs⟩ | ⟨hnm, hb, ht, hs⟩ := b.hazardStep_cases <;> rw [hs]
  · have hnmt : (b.raw.n || b.raw.m || b.raw.t) = true := by rw [hnm, Bool.true_or]
    obtain ⟨d, e, hd, he⟩ := State.occupied_of_raw hnmt
    exact h.pipeInv_stallWith hnmt hd he
  · exact h.pipeInv_flush
  · obtain ⟨d, e, hd, he⟩ := State.occupied_of_raw (s := b) (by rw [ht, Bool.or_true])
    exact h.pipeInv_stallWith rfl hd he
  · obtain ⟨hn, hm⟩ := Bool.or_eq_false_iff.mp hnm
    exact h.pipeInv_advance hfull hn hm ht hb

end Sys2Proof.Machine

/-! SUPPORT. The sequential core that a pipelined core stands for (46_pipeline.md R291), along one pipelined cycle. -/

namespace Sys2Proof.Machine

/-! ## The drained core -/

section
variable (s : State)

@[simp] theorem State.drained_pc : s.drained.pc = s.nextIndex := rfl
@[simp] theorem State.drained_regs : s.drained.regs = s.commitWriteback.regs := rfl
@[simp] theorem State.drained_imem : s.drained.imem = s.imem := s.commitWriteback_imem
@[simp] theorem State.drained_dmem : s.drained.dmem = s.dmem := s.commitWriteback_dmem
@[simp] theorem State.drained_flags : s.drained.flags = s.flags := s.commitWriteback_flags
@[simp] theorem State.drained_programEnded : s.drained.programEnded = s.programEnded := s.commitWriteback_programEnded
@[simp] theorem State.drained_fault : s.drained.fault = s.fault := s.commitWriteback_fault

theorem State.halted_drained : s.drained.halted = s.halted := by
  simp [State.halted]

theorem State.reg_drained (r : RegIdx) : s.drained.reg r = s.commitWriteback.reg r :=
  State.reg_congr s.drained_regs r

/-- A rule does not read the mode, nor anything that draining changes. -/
theorem executeRecord_with_mode (r : Record) (e : ExecBuf) (m : Mode) :
    executeRecord r e { s with params := { s.params with mode := m } } = executeRecord r e s := by
  cases r with
  | instr i => cases i <;> rfl
  | unrecognized | invalidFetch => rfl

theorem executeRecord_drained (r : Record) (e : ExecBuf) : executeRecord r e s.drained = executeRecord r e s := by
  rw [← executeRecord_with_mode s r e .sequential]
  exact executeRecord_congr r e rfl s.drained_dmem s.drained_flags

end

/-! ## The next index -/

section
variable {s : State}

theorem State.nextIndex_of_executeBuf {e : ExecBuf} (he : s.executeBuf = some e) : s.nextIndex = e.ipc := by
  rw [State.nextIndex, he]

variable (he : s.executeBuf = none)
include he

theorem State.nextIndex_of_taken (hb : s.branchTaken = true) : s.nextIndex = s.pc := by
  rw [State.nextIndex, he, hb]; rfl

theorem State.nextIndex_of_decodeBuf {d : DecodeBuf} (hb : s.branchTaken = false) (hd : s.decodeBuf = some d) :
    s.nextIndex = d.ipc := by
  rw [State.nextIndex, he, hb, hd]; rfl

theorem State.nextIndex_of_empty (hd : s.decodeBuf = none) : s.nextIndex = s.pc := by
  rw [State.nextIndex, he, hd]
  exact ite_self s.pc

end

section
variable {b : State}

/-- A pending branch, flushed now or waiting behind a stall, goes on at its target (R306, R308). -/
theorem State.nextIndex_hazardStep_of_taken (hb : b.branchTaken = true) : b.hazardStep.nextIndex = b.pc := by
  by_cases h : b.DelaysFlush
  · obtain ⟨n, m, t, -, hs⟩ := State.hazardStep_of_delaysFlush hb h
    rw [hs]
    exact State.nextIndex_of_taken rfl hb
  · rw [State.hazardStep_of_not_delaysFlush hb h]
    exact State.nextIndex_of_empty rfl rfl

/-- Without a branch the instruction in D is next, issued or held. -/
theorem State.nextIndex_hazardStep_of_decodeBuf {d : DecodeBuf} (hb : b.branchTaken = false)
    (hd : b.decodeBuf = some d) : b.hazardStep.nextIndex = d.ipc := by
  obtain ⟨-, hs⟩ | ⟨-, hb', -⟩ | ⟨-, -, -, hs⟩ | ⟨-, -, -, hs⟩ := b.hazardStep_cases
  · rw [hs]; exact State.nextIndex_of_decodeBuf rfl hb hd
  · cases hb.symm.trans hb'
  · rw [hs]; exact State.nextIndex_of_decodeBuf rfl hb hd
  · have he : b.advance.executeBuf = some (b.resolve d) := by simp [hd]
    rw [hs, State.nextIndex_of_executeBuf he, State.resolve]

/-- With bubbles in D and E the word in F is next. -/
theorem State.nextIndex_hazardStep_of_fetchBuf {f : FetchBuf} (hb : b.branchTaken = false) (he : b.executeBuf = none)
    (hd : b.decodeBuf = none) (hf : b.fetchBuf = some f) : b.hazardStep.nextIndex = f.ipc := by
  rw [State.hazardStep_of_idle hb he]
  exact State.nextIndex_of_decodeBuf (d := f.toDecode) (by simp [hd]) hb (by simp [hf])

end

/-! ## A cycle with a bubble in E -/

section
variable {s : State} (h : PipeInv s)
include h

/-- A pending branch waits behind a stall, so Fetch is held. -/
theorem PipeInv.anyHazard_of_taken (hb : s.branchTaken = true) : s.anyHazard = true := by
  by_contra hz
  cases (h.flushed (by simpa using hz)).symm.trans hb

/-- A stall holds an instruction in D. -/
theorem PipeInv.anyHazard_of_decodeBuf_none (hd : s.decodeBuf = none) : s.anyHazard = false := by
  refine Bool.eq_false_iff.mpr fun hz => ?_
  obtain ⟨d, f, hd', -⟩ := h.held hz
  cases hd.symm.trans hd'

/-- The cycle of a bubble moves no instruction past Execute, so the next index stays (R262, R281). -/
theorem PipeInv.nextIndex_bubble {b : State} (he : s.executeBuf = none) (k : AfterBubble s b) :
    b.hazardStep.nextIndex = s.nextIndex := by
  cases hb : s.branchTaken with
  | true =>
    rw [State.nextIndex_hazardStep_of_taken (k.branchTaken.trans hb), State.nextIndex_of_taken he hb, k.pc,
      State.frontHalf_pc, if_pos (h.anyHazard_of_taken hb)]
  | false =>
    cases hd : s.decodeBuf with
    | some d =>
      obtain ⟨d', hd', hfrom⟩ := State.frontHalf_decodeBuf_of_some hd (h.decode d hd).unlatched
      rw [State.nextIndex_hazardStep_of_decodeBuf (k.branchTaken.trans hb) (k.decodeBuf.trans hd'),
        State.nextIndex_of_decodeBuf he hb hd, hfrom.ipc]
    | none =>
      have hf : b.fetchBuf = some s.fetched := by
        rw [k.fetchBuf, State.frontHalf_fetchBuf, h.anyHazard_of_decodeBuf_none hd]; rfl
      rw [State.nextIndex_hazardStep_of_fetchBuf (k.branchTaken.trans hb) k.executeBuf
        (k.decodeBuf.trans (State.frontHalf_decodeBuf_of_none hd)) hf, State.nextIndex_of_empty he hd]
      rfl

end

/-- A core whose W has no effect any more agrees with its drained core. -/
theorem State.agree_drained_of_committed {t : State} (h : t.commitWriteback.regs = t.regs) : Agree t.drained t where
  regs r := (t.reg_drained r).trans (State.reg_congr h r)
  memory := t.drained_dmem
  flags := t.drained_flags
  programEnded := t.drained_programEnded
  fault := t.drained_fault

theorem Agree.symm {s t : State} (h : Agree s t) : Agree t s where
  regs r := (h.regs r).symm
  memory := h.memory.symm
  flags := h.flags.symm
  programEnded := h.programEnded.symm
  fault := h.fault.symm

theorem Agree.trans {s t u : State} (h : Agree s t) (k : Agree t u) : Agree s u where
  regs r := (h.regs r).trans (k.regs r)
  memory := h.memory.trans k.memory
  flags := h.flags.trans k.flags
  programEnded := h.programEnded.trans k.programEnded
  fault := h.fault.trans k.fault

/-- The cycle of a bubble commits W and leaves it empty; nothing else that a program computes changes. -/
theorem State.agree_drained_bubble {s : State} (he : s.executeBuf = none) :
    Agree s.frontHalf.commitWriteback.countCycle.hazardStep.drained s.drained where
  regs r := by
    have hw : s.frontHalf.commitWriteback.countCycle.hazardStep.writebackBuf = none := by simpa using he
    have cycle : PipeCycle s _ := .bubble he
    rw [State.reg_drained, State.commitWriteback_of_none hw, cycle.reg_eq, State.reg_drained]
  memory := by simp
  flags := by simp
  programEnded := by simp
  fault := by simp

/-! ## A cycle with an instruction in E -/

section
variable {s : State} {e : ExecBuf}

/-- The instruction in E is the one that the drained core would issue, with the operands it would load (R315). -/
theorem ExecuteExact.eq_loadOperands (h : ExecuteExact s e) (he : s.executeBuf = some e) :
    s.drained.nextRecord = e.record ∧ s.drained.loadOperands s.drained.nextRecord s.drained.pc = e := by
  have hpc : s.drained.pc = e.ipc := State.nextIndex_of_executeBuf he
  have hrec : s.drained.nextRecord = e.record := by
    rw [State.nextRecord, s.drained_imem, hpc, h.record]
  refine ⟨hrec, ?_⟩
  calc s.drained.loadOperands s.drained.nextRecord s.drained.pc
    _ = s.drained.loadOperands e.record e.ipc := by rw [hrec, hpc]
    _ = ⟨e.record, e.ipc, e.vn, e.vm, e.vt, e.wb⟩ := by rw [h.vn, h.vm, h.vt, h.wb]; rfl

/-- The step of the drained core runs the rule of the instruction in E. -/
theorem ExecuteExact.step_drained {x : Executed} (h : ExecuteExact s e) (he : s.executeBuf = some e)
    (hh : s.halted = false) (hx : executeRecord e.record e s = some x) :
    step s.drained = .next (s.drained.runRecord e.record x) := by
  obtain ⟨hrec, hload⟩ := h.eq_loadOperands he
  obtain ⟨y, hy, hinstr⟩ := s.drained.seqInstruction_eq_runRecord
  rw [hload, hrec, executeRecord_drained, hx] at hy
  obtain rfl := Option.some.inj hy
  rw [step_sequential _ rfl rfl (s.halted_drained.trans hh), hinstr, hrec]

/-- A completed instruction leaves the registers that the commit of the old W and then of its own request leaves. -/
theorem State.agree_drained_done {eff : Effect} (he : s.executeBuf = some e)
    (hx : executeRecord e.record e s = some (.done eff)) :
    Agree (s.frontHalf.executeLatched e (.done eff)).commitWriteback.countCycle.hazardStep.drained
      (s.drained.runRecord e.record (.done eff)) where
  regs r := by
    have cycle : PipeCycle s _ := .done e eff he hx
    rw [State.reg_drained, State.reg_runRecord_done, State.commitWriteback_of_some (w := { e with wb := eff.wb })
      (by simp [State.executeLatched_done])]
    exact State.reg_congr (State.commit_regs_congr (t := s.drained) cycle.regs_eq eff.wb) r
  memory := by simp [State.runRecord_done, State.executeLatched_done]
  flags := by simp [State.runRecord_done, State.executeLatched_done]
  programEnded := by simp [State.runRecord_done, State.executeLatched_done]
  fault := by simp [State.runRecord_done, State.executeLatched_done]

/-- The next index after a completed instruction is where its rule leaves the PC. -/
theorem PipeInv.nextIndex_done {eff : Effect} (h : PipeInv s) (he : s.executeBuf = some e)
    (hx : executeRecord e.record e s = some (.done eff)) :
    (s.frontHalf.executeLatched e (.done eff)).commitWriteback.countCycle.hazardStep.nextIndex =
      (s.drained.runRecord e.record (.done eff)).pc := by
  have hz := h.anyHazard_eq_false he
  have hbt : (s.frontHalf.executeLatched e (.done eff)).commitWriteback.countCycle.branchTaken = eff.branch.isTaken := by
    simp [State.executeLatched_done, h.flushed hz]
  rw [State.pc_runRecord_done, s.drained_pc, State.nextIndex_of_executeBuf he]
  cases hb : eff.branch.isTaken with
  | true =>
    rw [State.nextIndex_hazardStep_of_taken (hbt.trans hb)]
    cases heff : eff.branch with
    | taken target => simp [State.executeLatched_done, heff, BranchOutcome.pcAfter]
    | notTaken | notBranch => rw [heff] at hb; cases hb
  | false =>
    obtain ⟨d, hd, hipc⟩ := h.back hz e he
    obtain ⟨d', hd', hfrom⟩ := State.frontHalf_decodeBuf_of_some hd (h.decode d hd).unlatched
    rw [State.nextIndex_hazardStep_of_decodeBuf (hbt.trans hb) ((State.afterExecute_done he hx).decodeBuf.trans hd'),
      BranchOutcome.pcAfter_of_not_taken hb, hfrom.ipc, hipc]

/-- Committing W twice is committing it once. -/
theorem State.commitWriteback_regs_of_committed {t : State} (hr : t.regs = s.commitWriteback.regs)
    (hw : t.writebackBuf = s.writebackBuf) : t.commitWriteback.regs = t.regs := by
  refine State.regs_ext fun r => ?_
  cases hs : s.writebackBuf with
  | none => rw [State.commitWriteback_of_none (hw.trans hs)]
  | some w =>
    rw [State.commitWriteback_of_some (hw.trans hs), State.reg_commit, State.reg_congr hr,
      State.commitWriteback_of_some hs, State.reg_commit]
    cases w.wb with
    | none => rfl
    | some q =>
      simp only
      split <;> rfl

/-- After a fault W still holds the request that the cycle has committed (R282). -/
theorem State.committed_raises {c : Fault} {info : Word} (he : s.executeBuf = some e)
    (hx : executeRecord e.record e s = some (.raises c info)) :
    (s.frontHalf.executeLatched e (.raises c info)).commitWriteback.countCycle.commitWriteback.regs =
      (s.frontHalf.executeLatched e (.raises c info)).commitWriteback.countCycle.regs :=
  have cycle : PipeCycle s _ := .raises e c info he hx
  State.commitWriteback_regs_of_committed cycle.regs_eq (by simp [State.executeLatched_raises])

/-- A faulting instruction changes nothing but the record of the fault (R282, R335). -/
theorem State.agree_drained_raises {c : Fault} {info : Word} (he : s.executeBuf = some e)
    (hx : executeRecord e.record e s = some (.raises c info)) :
    Agree (s.frontHalf.executeLatched e (.raises c info)).commitWriteback.countCycle.drained
      (s.drained.runRecord e.record (.raises c info)) where
  regs r := by
    have cycle : PipeCycle s _ := .raises e c info he hx
    rw [State.reg_drained, State.reg_congr (State.committed_raises he hx) r, cycle.reg_eq, ← State.reg_drained]
    rfl
  memory := by simp [State.runRecord_raises, State.executeLatched_raises]
  flags := by simp [State.runRecord_raises, State.executeLatched_raises]
  programEnded := by simp [State.runRecord_raises, State.executeLatched_raises]
  fault := by simp [State.runRecord_raises, State.executeLatched_raises, State.nextIndex_of_executeBuf he]

end

/-- Settles O59, by what E holds: a bubble (`PipeInv.nextIndex_bubble`), an instruction that completes
(`PipeInv.nextIndex_done`), or one that faults, after which the core is halted. The invariant is kept because the hazard step
establishes it (`HazardReady.pipeInv_hazardStep`). -/
theorem pipelinedCycleSimulatesSequentialStep : Obligations.PipelinedCycleSimulatesSequentialStep := by
  intro s t h hm hfull hh ht
  cases pipeCycle_of_step hm hh ht with
  | bubble he =>
    have after := State.afterBubble he
    refine ⟨fun _ => (h.hazardReady after.toAfterExecute).pipeInv_hazardStep (by rw [after.params]; exact hfull), fun _ => ⟨?_, ?_⟩,
      fun hne => absurd he hne⟩
    · exact State.agree_drained_bubble he
    · exact h.nextIndex_bubble he after
  | done e eff he hx =>
    have after := State.afterExecute_done he hx
    refine ⟨fun _ => (h.hazardReady after).pipeInv_hazardStep (by rw [after.params]; exact hfull),
      fun hnone => by (cases he.symm.trans hnone), fun _ => ⟨_, (h.execute e he).step_drained he hh hx, ?_, fun _ => ?_⟩⟩
    · exact State.agree_drained_done he hx
    · exact h.nextIndex_done he hx
  | raises e c info he hx =>
    have hhalted := s.frontHalf.halted_executeLatched_raises e c info
    refine ⟨fun hrun => by (cases hhalted.symm.trans hrun), fun hnone => by (cases he.symm.trans hnone),
      fun _ => ⟨_, (h.execute e he).step_drained he hh hx, ?_, fun hrun => by (cases hhalted.symm.trans hrun)⟩⟩
    exact State.agree_drained_raises he hx

end Sys2Proof.Machine

/-! SUPPORT. Runs (46_pipeline.md R275, R291): a sequential run instruction by instruction, and a pipelined run beside the
sequential run of the same program. -/

namespace Sys2Proof.Machine

/-! ## Runs of the core -/

section
variable {s t u : State} {j k : Nat}

theorem core_run_of_step (h : step s = .next t) (k : Nat) : core.run (k + 1) s = core.run k t := by
  have hstep : core.step s = .next t := h
  simp only [Host.Core.run, hstep]

/-- A run of at least one step that answers a next state begins with a step that does. -/
theorem step_of_core_run (h : core.run (k + 1) s = .next t) : ∃ u, step s = .next u ∧ core.run k u = .next t := by
  cases hs : step s with
  | next u => exact ⟨u, rfl, (core_run_of_step hs k).symm.trans h⟩
  | fault c =>
    have hstep : core.step s = .fault c := hs
    simp only [Host.Core.run, hstep] at h
    cases h
  | refused c =>
    have hstep : core.step s = .refused c := hs
    simp only [Host.Core.run, hstep] at h
    cases h

theorem core_run_add (h : core.run j s = .next t) (k : Nat) : core.run (j + k) s = core.run k t := by
  induction j generalizing s with
  | zero => cases h; rw [Nat.zero_add]
  | succ j ih =>
    obtain ⟨u, hu, hrun⟩ := step_of_core_run h
    rw [Nat.add_right_comm, core_run_of_step hu, ih hrun]

/-- A core whose step changes nothing stays as it is. -/
theorem core_run_of_fixed (h : step s = .next s) (k : Nat) : core.run k s = .next s := by
  induction k with
  | zero => rfl
  | succ k ih => rw [core_run_of_step h, ih]

/-- Two runs from one state that both end where the step changes nothing end in the same state. -/
theorem core_run_unique (ht : core.run j s = .next t) (htt : step t = .next t) (hu : core.run k s = .next u)
    (huu : step u = .next u) : t = u := by
  have hj : core.run (j + k) s = .next t := (core_run_add ht k).trans (core_run_of_fixed htt k)
  have hk : core.run (k + j) s = .next u := (core_run_add hu j).trans (core_run_of_fixed huu j)
  rw [Nat.add_comm k j] at hk
  cases hj.symm.trans hk
  rfl

end

/-! ## A sequential core between two steps of a run -/

/-- A sequential core at an instruction boundary, or stopped by a fault. -/
structure SeqResting (s : State) : Prop where
  mode : s.params.mode = .sequential
  rest : s.fault ≠ none ∨ s.atBoundary = true

theorem seqResting_resetWith {params : Params} (hm : params.mode = .sequential) (imem : List IWord) (dmem : Memory) :
    SeqResting (State.resetWith params imem dmem) := ⟨hm, .inr rfl⟩

section
variable {s t : State} (h : SeqResting s)
include h

theorem SeqResting.step_of_halted (hh : s.halted = true) : step s = .next s := by
  obtain hfault | hb := h.rest
  · exact haltedCoreTakesNoStep s (.inl hfault)
  · exact haltedCoreTakesNoStep s ((State.fault_or_ended_of_halted hh).imp_right fun hended => ⟨hended, .inr hb⟩)

theorem SeqResting.atBoundary_of_running (hh : s.halted = false) : s.atBoundary = true :=
  h.rest.resolve_left fun hfault => hfault (State.running_of_halted_eq_false hh).2

/-- A running core runs the rule of the record at the PC. -/
theorem SeqResting.step_of_running (hh : s.halted = false) :
    ∃ x, executeRecord s.nextRecord (s.loadOperands s.nextRecord s.pc) s = some x ∧
      step s = .next (s.runRecord s.nextRecord x) := by
  obtain ⟨x, hx, hinstr⟩ := s.seqInstruction_eq_runRecord
  exact ⟨x, hx, (step_sequential s h.mode (h.atBoundary_of_running hh) hh).trans hinstr⟩

theorem SeqResting.keeps_runRecord (r : Record) (x : Executed) : SeqResting (s.runRecord r x) where
  mode := by rw [(s.keepsProgram_runRecord r x).params]; exact h.mode
  rest := by
    cases x with
    | done eff => exact .inr (by rw [State.runRecord_done]; rfl)
    | raises c info => exact .inl (by rw [(s.faults_runRecord_raises r c info).fault]; nofun)

theorem SeqResting.keeps_step (ht : step s = .next t) : SeqResting t := by
  cases hh : s.halted with
  | true => cases (h.step_of_halted hh).symm.trans ht; exact h
  | false =>
    obtain ⟨x, -, hstep⟩ := h.step_of_running hh
    cases hstep.symm.trans ht
    exact h.keeps_runRecord _ x

end

theorem SeqResting.keeps_run {s t : State} {k : Nat} (h : SeqResting s) (ht : core.run k s = .next t) : SeqResting t := by
  induction k generalizing s with
  | zero => cases ht; exact h
  | succ k ih =>
    obtain ⟨u, hu, hrun⟩ := step_of_core_run ht
    exact ih (h.keeps_step hu) hrun

/-- A run that has not ended has counted four cycles for each instruction (R272). -/
theorem SeqResting.cycleCount_run {s t : State} {k : Nat} (h : SeqResting s) (ht : core.run k s = .next t)
    (hh : t.halted = false) : s.halted = false ∧ t.cycleCount = s.cycleCount + 4 * k := by
  induction k generalizing s with
  | zero => cases ht; exact ⟨hh, rfl⟩
  | succ k ih =>
    obtain ⟨u, hu, hrun⟩ := step_of_core_run ht
    obtain ⟨hurun, hcount⟩ := ih (h.keeps_step hu) hrun
    have hsrun : s.halted = false := by
      refine Bool.eq_false_iff.mpr fun hs => ?_
      cases (h.step_of_halted hs).symm.trans hu
      cases hurun.symm.trans hs
    obtain ⟨-, -, counts⟩ := cycleCountIncrements s u hu
    have hfour : u.cycleCount = s.cycleCount + 4 := by
      simpa [(State.running_of_halted_eq_false hurun).2] using counts hsrun h.mode (h.atBoundary_of_running hsrun)
    exact ⟨hsrun, by omega⟩

/-- Settles O53: the completed instructions count four cycles each (`SeqResting.cycleCount_run`), and the last one four if
it completes and three if it faults. -/
theorem sequentialRunCycleCount : Obligations.SequentialRunCycleCount := by
  intro params imem dmem k t u hm hrun hh hu
  have hreset := seqResting_resetWith hm imem dmem
  obtain ⟨-, hcount⟩ := hreset.cycleCount_run hrun hh
  have hcount : t.cycleCount = 4 * k := hcount.trans (Nat.zero_add _)
  obtain ⟨hended, hfault⟩ := State.running_of_halted_eq_false hh
  obtain ⟨x, -, hstep⟩ := (hreset.keeps_run hrun).step_of_running hh
  cases hstep.symm.trans hu
  cases x with
  | done eff =>
    have hret := t.retired_runRecord_done t.nextRecord eff
    exact ⟨fun _ => by rw [hret.cycleCount]; omega, fun hne => absurd (hret.fault.trans hfault) hne⟩
  | raises c info =>
    have hfaults := t.faults_runRecord_raises t.nextRecord c info
    exact ⟨fun hend => by (cases (hfaults.programEnded.trans hended).symm.trans hend),
      fun _ => by rw [hfaults.cycleCount, hcount]⟩

/-! ## Two sequential cores at the same point of a program -/

theorem Agree.halted_eq {s t : State} (h : Agree s t) : s.halted = t.halted := by
  rw [State.halted, State.halted, h.programEnded, h.fault]

/-- `v` is at the instruction boundary at which `s` is: they may differ in the cycle count and in what sequential mode does
not use. -/
structure Twin (s v : State) : Prop extends Agree s v where
  params : v.params = s.params
  imem : v.imem = s.imem
  pc : v.pc = s.pc
  mode : s.params.mode = .sequential
  boundary : s.atBoundary = true
  boundary' : v.atBoundary = true

/-- Operands come from the register file. -/
theorem State.loadOperands_congr {s v : State} (h : v.regs = s.regs) (r : Record) (ipc : Word) :
    v.loadOperands r ipc = s.loadOperands r ipc := by
  have hpath : ∀ p, v.resolvePath p none = s.resolvePath p none := by
    rintro (- | r)
    · rfl
    · exact congrArg some (State.reg_congr h r)
  simp only [State.loadOperands, hpath]

theorem Twin.agree_runRecord {s v : State} (h : Twin s v) (r : Record) (x : Executed) :
    Agree (s.runRecord r x) (v.runRecord r x) ∧ (v.runRecord r x).pc = (s.runRecord r x).pc := by
  have hregs : s.regs = v.regs := State.regs_ext h.regs
  cases x with
  | done eff =>
    rw [State.runRecord_done, State.runRecord_done, ← State.commit_regs_congr hregs eff.wb, h.pc, ← h.memory, ← h.flags,
      ← h.programEnded]
    exact ⟨⟨fun _ => rfl, rfl, rfl, rfl, h.fault⟩, rfl⟩
  | raises c info =>
    rw [State.runRecord_raises, State.runRecord_raises, h.pc]
    exact ⟨⟨h.regs, h.memory, h.flags, h.programEnded, rfl⟩, rfl⟩

/-- Twins that are not halted run the same record on the same operands. -/
theorem Twin.step_agrees {s v u : State} (h : Twin s v) (hh : s.halted = false) (hu : step s = .next u) :
    ∃ w, step v = .next w ∧ Agree u w ∧ w.pc = u.pc := by
  have hregs : v.regs = s.regs := (State.regs_ext h.regs).symm
  have hrec : v.nextRecord = s.nextRecord := by rw [State.nextRecord, h.imem, h.pc, State.nextRecord]
  obtain ⟨x, hx, hstep⟩ := SeqResting.step_of_running ⟨h.mode, .inr h.boundary⟩ hh
  obtain ⟨y, hy, hstep'⟩ := SeqResting.step_of_running (s := v) ⟨by rw [h.params, h.mode], .inr h.boundary'⟩
    (h.halted_eq.symm.trans hh)
  rw [hrec, State.loadOperands_congr hregs, h.pc, executeRecord_congr _ _ h.params h.memory.symm h.flags.symm, hx] at hy
  obtain rfl := Option.some.inj hy
  cases hstep.symm.trans hu
  rw [hrec] at hstep'
  obtain ⟨hagree, hpc⟩ := h.agree_runRecord s.nextRecord x
  exact ⟨_, hstep', hagree, hpc⟩

/-! ## A running pipelined core beside the sequential core -/

/-- The running pipelined core `s` has executed what the sequential core `v` has. -/
structure Simulates (s v : State) : Prop where
  inv : PipeInv s
  mode : s.params.mode = .pipelined
  full : s.params.hazardScope = .full
  running : s.halted = false
  twin : Twin s.drained v

/-- Draining keeps the program, and the parameters but for the mode. -/
theorem KeepsProgram.drained {s t : State} (h : KeepsProgram s t) : KeepsProgram s.drained t.drained where
  imem := by rw [s.drained_imem, t.drained_imem, h.imem]
  params := by simp only [State.drained, h.params]

theorem keepsProgram_of_step {s t : State} (h : step s = .next t) : KeepsProgram s t :=
  have ⟨himem, hparams⟩ := stepKeepsProgramAndParameters s t h
  ⟨himem, hparams⟩

section
variable {s v t : State} (h : Simulates s v) (ht : step s = .next t)
include h ht

/-- The pipelined core moves on to `t` and the sequential core to `w`: if they still agree, `t` runs beside `w`. -/
theorem Simulates.of_step {w : State} (hh : t.halted = false) (agree : Agree t.drained w) (hpc : w.pc = t.nextIndex)
    (kept : KeepsProgram v w) (hb : w.atBoundary = true) : Simulates t w := by
  have hst := keepsProgram_of_step ht
  obtain ⟨hinv, -⟩ := pipelinedCycleSimulatesSequentialStep s t h.inv h.mode h.full h.running ht
  exact
    { inv := hinv hh
      mode := by rw [hst.params]; exact h.mode
      full := by rw [hst.params]; exact h.full
      running := hh
      twin :=
        { agree with
          params := by rw [kept.params, h.twin.params, hst.drained.params]
          imem := by rw [kept.imem, h.twin.imem, hst.drained.imem]
          pc := hpc
          mode := rfl
          boundary := rfl
          boundary' := hb } }

/-- A cycle with a bubble in E is no step of the sequential core. -/
theorem Simulates.bubble (he : s.executeBuf = none) : Simulates t v := by
  obtain ⟨-, hbubble, -⟩ := pipelinedCycleSimulatesSequentialStep s t h.inv h.mode h.full h.running ht
  obtain ⟨hagree, hnext⟩ := hbubble he
  have hh : t.halted = false := by
    rw [← t.halted_drained, hagree.halted_eq, s.halted_drained]; exact h.running
  exact h.of_step ht hh (hagree.trans h.twin.toAgree) (h.twin.pc.trans hnext.symm) (.refl v) h.twin.boundary'

/-- A cycle with an instruction in E is one step of the sequential core. -/
theorem Simulates.execute (he : s.executeBuf ≠ none) :
    ∃ w, step v = .next w ∧ Agree t.drained w ∧ (t.halted = false → Simulates t w) := by
  obtain ⟨-, -, hexecute⟩ := pipelinedCycleSimulatesSequentialStep s t h.inv h.mode h.full h.running ht
  obtain ⟨u, hu, hagree, hnext⟩ := hexecute he
  obtain ⟨w, hw, huw, hpc⟩ := h.twin.step_agrees (s.halted_drained.trans h.running) hu
  refine ⟨w, hw, hagree.trans huw, fun hh => ?_⟩
  have hwrun : w.halted = false := by rw [← (hagree.trans huw).halted_eq, t.halted_drained]; exact hh
  have hmode : v.params.mode = .sequential := by rw [h.twin.params, h.twin.mode]
  have hrest : SeqResting w := SeqResting.keeps_step ⟨hmode, .inr h.twin.boundary'⟩ hw
  exact h.of_step ht hh (hagree.trans huw) (hpc.trans (hnext hh).symm) (keepsProgram_of_step hw)
    (hrest.atBoundary_of_running hwrun)

end

/-! ## Progress of the pipelined core -/

/-- How many cycles pass before an instruction stands in E: after a flush the target has to be fetched and decoded, and a
flush that waits behind a stall takes a cycle of its own (43_branch.md R220, 47_hazards_forwarding.md R308, R313). -/
def State.bubblesAhead (s : State) : Nat :=
  if s.executeBuf.isSome then 0
  else if s.anyHazard then (if s.branchTaken then 3 else 1)
  else if s.decodeBuf.isSome then 1
  else 2

theorem State.bubblesAhead_of_executeBuf {s : State} {e : ExecBuf} (he : s.executeBuf = some e) : s.bubblesAhead = 0 := by
  rw [State.bubblesAhead, he]; rfl

theorem State.bubblesAhead_pos {s : State} (he : s.executeBuf = none) : 0 < s.bubblesAhead := by
  simp only [State.bubblesAhead, he, Option.isSome_none, Bool.false_eq_true, if_false]
  split_ifs <;> decide

/-- Each cycle with a bubble in E brings the next instruction closer. -/
theorem PipeInv.bubblesAhead_hazardStep_lt {s b : State} (h : PipeInv s) (he : s.executeBuf = none) (k : AfterBubble s b) :
    b.hazardStep.bubblesAhead < s.bubblesAhead := by
  cases hb : s.branchTaken with
  | true =>
    have hz := h.anyHazard_of_taken hb
    have hflush : b.hazardStep = b.flush :=
      State.hazardStep_of_not_delaysFlush (k.branchTaken.trans hb) (State.not_delaysFlush_of_bubble k.executeBuf)
    have hbz : b.flush.anyHazard = false := k.noHazard
    simp [State.bubblesAhead, hflush, hbz, he, hz, hb]
  | false =>
    have hadv : b.hazardStep = b.advance := State.hazardStep_of_idle (k.branchTaken.trans hb) k.executeBuf
    cases hd : s.decodeBuf with
    | some d =>
      obtain ⟨d', hd', -⟩ := State.frontHalf_decodeBuf_of_some hd (h.decode d hd).unlatched
      have hissued : b.advance.executeBuf = some (b.resolve d') := by simp [k.decodeBuf, hd']
      rw [hadv, State.bubblesAhead_of_executeBuf hissued]
      exact State.bubblesAhead_pos he
    | none =>
      obtain ⟨f, hf, -⟩ := h.fetched_frontHalf
      have hz := h.anyHazard_of_decodeBuf_none hd
      have hbz : b.advance.anyHazard = false := k.noHazard
      simp [State.bubblesAhead, hadv, k.decodeBuf, k.fetchBuf, hf, hbz, State.frontHalf_decodeBuf_of_none hd, he, hz, hd]

/-- The instruction in E has its operands. -/
theorem PipeInv.executeReady {s : State} (h : PipeInv s) : s.ExecuteReady := by
  intro e he
  have hexact := h.execute e he
  exact ⟨by rw [hexact.vn, State.isSome_resolvePath], by rw [hexact.vm, State.isSome_resolvePath],
    by rw [hexact.vt, State.isSome_resolvePath]⟩

/-- The pipelined core comes to execute its next instruction, and the sequential core waits for it meanwhile. -/
theorem Simulates.reaches_execute {s v : State} (h : Simulates s v) :
    ∃ n t, core.run n s = .next t ∧ Simulates t v ∧ t.executeBuf ≠ none := by
  induction hn : s.bubblesAhead using Nat.strong_induction_on generalizing s with
  | _ n ih =>
    by_cases he : s.executeBuf = none
    · have hu := step_of_bubble h.mode h.running he
      have hlt := h.inv.bubblesAhead_hazardStep_lt he (State.afterBubble he)
      obtain ⟨m, t, hrun, ht⟩ := ih _ (hn ▸ hlt) (h.bubble hu he) rfl
      exact ⟨m + 1, t, (core_run_of_step hu m).trans hrun, ht⟩
    · exact ⟨0, s, rfl, h, he⟩

/-! ## The end of a pipelined run -/

/-- Only EXIT ends the run, and it writes no register (45_system.md R260). -/
theorem executeRecord_wb_of_ended {r : Record} {e : ExecBuf} {s : State} {eff : Effect}
    (h : executeRecord r e s = some (.done eff)) (hended : eff.ended = true) : eff.wb = none := by
  cases r with
  | unrecognized => cases h; rfl
  | invalidFetch => cases h
  | instr i =>
    cases ruleAnswer_of_executeInstr h with
    | endRun => rfl
    | write | writeFlags | load | store | jump | jumpClearing | link => cases hended

/-- When a cycle halts the core, W holds nothing that the registers do not have yet (R282, R288). -/
theorem PipeCycle.committed_of_halted {s t : State} (h : PipeCycle s t) (hs : s.halted = false) (ht : t.halted = true) :
    t.commitWriteback.regs = t.regs := by
  cases h with
  | bubble he => rw [State.commitWriteback_of_none (by simpa using he)]
  | done e eff he hx =>
    have hended : eff.ended = true := by
      obtain ⟨hs1, hs2⟩ := State.running_of_halted_eq_false hs
      simpa [State.halted, State.executeLatched_done, hs1, hs2] using ht
    rw [State.commitWriteback_of_some (w := { e with wb := eff.wb }) (by simp [State.executeLatched_done]),
      executeRecord_wb_of_ended hx hended]
    rfl
  | raises e c info he hx => exact State.committed_raises he hx

/-! ## The two runs -/

section
variable {s v t : State} {k : Nat} (h : Simulates s v)
include h

/-- When the pipelined run ends, the sequential run ends in agreement with it. -/
theorem Simulates.sequential_ends (hrun : core.run k s = .next t) (hh : t.halted = true) :
    ∃ j w, core.run j v = .next w ∧ w.halted = true ∧ Agree t w := by
  induction k generalizing s v with
  | zero => cases hrun; cases h.running.symm.trans hh
  | succ k ih =>
    obtain ⟨s', hs', hrun'⟩ := step_of_core_run hrun
    by_cases he : s.executeBuf = none
    · exact ih (h.bubble hs' he) hrun'
    · obtain ⟨v', hv', hagree, hnext⟩ := h.execute hs' he
      cases hh' : s'.halted with
      | false =>
        obtain ⟨j, w, hj, hw⟩ := ih (hnext hh') hrun'
        exact ⟨j + 1, w, (core_run_of_step hv' j).trans hj, hw⟩
      | true =>
        have hm' : s'.params.mode = .pipelined := by rw [(keepsProgram_of_step hs').params]; exact h.mode
        cases (core_run_of_fixed (step_of_halted_pipelined hm' hh') k).symm.trans hrun'
        have cycle := pipeCycle_of_step h.mode h.running hs'
        have hdrained := State.agree_drained_of_committed (cycle.committed_of_halted h.running hh')
        refine ⟨1, v', core_run_of_step hv' 0, ?_, hdrained.symm.trans hagree⟩
        rw [← hagree.halted_eq, t.halted_drained, hh']

/-- When the sequential run ends, the pipelined run ends. -/
theorem Simulates.pipelined_ends {w : State} (hrun : core.run k v = .next w) (hh : w.halted = true) :
    ∃ n t, core.run n s = .next t ∧ t.halted = true := by
  induction k generalizing s v with
  | zero =>
    cases hrun
    rw [← h.twin.halted_eq, s.halted_drained, h.running] at hh
    cases hh
  | succ k ih =>
    obtain ⟨v', hv', hrun'⟩ := step_of_core_run hrun
    obtain ⟨n, u, hu, hsim, he⟩ := h.reaches_execute
    obtain ⟨u', hu'⟩ := step_answers_pipelined hsim.mode hsim.inv.executeReady
    have hone : core.run (n + 1) s = .next u' := (core_run_add hu 1).trans (core_run_of_step hu' 0)
    obtain ⟨v'', hv'', -, hnext⟩ := hsim.execute hu' he
    cases hv'.symm.trans hv''
    cases hh' : u'.halted with
    | true => exact ⟨n + 1, u', hone, hh'⟩
    | false =>
      obtain ⟨m, t, ht, hht⟩ := ih (hnext hh') hrun'
      exact ⟨n + 1 + m, t, (core_run_add hone m).trans ht, hht⟩

end

/-- After reset the two cores are at the same point. -/
theorem simulates_resetWith (imem : List IWord) (dmem : Memory) (dmemBytes : Nat) (order : PathTPriority) :
    Simulates
      (State.resetWith { mode := .pipelined, hazardScope := .full, pathTPriority := order, dmemBytes := dmemBytes } imem dmem)
      (State.resetWith { mode := .sequential, hazardScope := .full, pathTPriority := order, dmemBytes := dmemBytes } imem
        dmem) where
  inv := pipelineInvariantHoldsAtReset _ _ _
  mode := rfl
  full := rfl
  running := rfl
  twin :=
    { regs := fun _ => rfl
      memory := rfl
      flags := rfl
      programEnded := rfl
      fault := rfl
      params := rfl
      imem := rfl
      pc := rfl
      mode := rfl
      boundary := rfl
      boundary' := rfl }

/-- Settles O60: the two cores start at the same point (`simulates_resetWith`), each run ends if the other does, and the
state in which the sequential run ends is unique. -/
theorem pipelinedAndSequentialRunsAgree : Obligations.PipelinedAndSequentialRunsAgree := by
  rintro imem dmem dmemBytes order sq pl rfl rfl
  have hsim := simulates_resetWith imem dmem dmemBytes order
  refine ⟨⟨?_, ?_⟩, ?_⟩
  · rintro ⟨k, t, hrun, hh⟩
    exact hsim.pipelined_ends hrun hh
  · rintro ⟨k, t, hrun, hh⟩
    obtain ⟨j, w, hj, hw, -⟩ := hsim.sequential_ends hrun hh
    exact ⟨j, w, hj, hw⟩
  · intro j k t u ht hht hu hhu
    obtain ⟨j', w, hw, hhw, hagree⟩ := hsim.sequential_ends hu hhu
    have hreset := seqResting_resetWith (params := ⟨.sequential, .full, order, dmemBytes⟩) rfl imem dmem
    obtain rfl : t = w := core_run_unique ht ((hreset.keeps_run ht).step_of_halted hht) hw ((hreset.keeps_run hw).step_of_halted hhw)
    exact hagree

end Sys2Proof.Machine

/-! SUPPORT. The dependency predicates in both scopes (47_hazards_forwarding.md R303, R304), and the hazard step outcome by
outcome in the priority order (R305 to R310). -/

namespace Sys2Proof.Machine

/-! ## Dependencies (R303, R304) -/

/-- What feeds a path: a destination other than 31 that the path reads (R302, R303). -/
theorem Record.feeds_iff {producer : Record} {path : Option RegIdx} :
    Record.feeds producer path = true ↔ ∃ r, Record.dest producer = some r ∧ r ≠ 31 ∧ path = some r := by
  unfold Record.feeds Record.liveDest
  cases hdest : Record.dest producer with
  | none => simp
  | some d =>
    by_cases hzero : d = zeroReg
    · simp [hzero, zeroReg]
    · have hne : d ≠ 31#5 := hzero
      simp [hzero, hne]

/-- A dependency is a fed path whose formats the scope sees, in either scope. -/
theorem rawOf_eq (scope : HazardScope) (consumer producer : Record) :
    rawOf scope consumer producer =
      ⟨Record.feeds producer (Record.readsN consumer) && scopeSeesNM scope consumer producer,
        Record.feeds producer (Record.readsM consumer) && scopeSeesNM scope consumer producer,
        Record.feeds producer (Record.readsT consumer) && scopeSeesT scope consumer producer⟩ := by
  unfold rawOf Record.feeds
  cases Record.liveDest producer <;> rfl

theorem State.raw_of_literal {s : State} {d : DecodeBuf} {e : ExecBuf} (hliteral : s.params.hazardScope = .literal)
    (hd : s.decodeBuf = some d) (he : s.executeBuf = some e) :
    s.raw =
      ⟨Record.feeds e.record (Record.readsN d.decoded) && Record.format d.decoded == Record.format e.record,
        Record.feeds e.record (Record.readsM d.decoded) && Record.format d.decoded == Record.format e.record,
        Record.feeds e.record (Record.readsT d.decoded) &&
          (Record.format d.decoded == some .C && Record.format e.record == some .R)⟩ := by
  simp only [State.raw, hd, he, hliteral, rawOf_eq, scopeSeesNM, scopeSeesT]

/-- No dependency is seen while D or E holds a bubble (R303). -/
theorem State.raw_of_bubble {s : State} (h : s.decodeBuf = none ∨ s.executeBuf = none) :
    s.raw = ⟨false, false, false⟩ := by
  obtain hd | he := h
  · rw [State.raw, hd]
  · exact s.raw_of_executeBuf_none he

/-- Settles O43: under full a predicate is the producer feeding the path (`State.raw_of_full`). -/
theorem dependenciesUnderFullScope : Obligations.DependenciesUnderFullScope := by
  intro s hfull
  refine ⟨State.raw_of_bubble, fun d e hd he => ?_⟩
  rw [State.raw_of_full hfull hd he]
  exact ⟨Record.feeds_iff, Record.feeds_iff, Record.feeds_iff⟩

/-- A fed path under a condition on the formats. -/
theorem Record.feeds_and_iff {producer : Record} {path : Option RegIdx} {formats : Bool} {P : Prop}
    (hformats : formats = true ↔ P) :
    (Record.feeds producer path && formats) = true ↔
      ∃ r, Record.dest producer = some r ∧ r ≠ 31 ∧ path = some r ∧ P := by
  rw [Bool.and_eq_true, Record.feeds_iff, hformats]
  simp only [← exists_and_right, and_assoc]

/-- Settles O44: under literal a predicate is the producer feeding the path between the formats that the scope sees. -/
theorem dependenciesUnderLiteralScope : Obligations.DependenciesUnderLiteralScope := by
  intro s hliteral
  refine ⟨State.raw_of_bubble, fun d e hd he => ?_⟩
  rw [State.raw_of_literal hliteral hd he]
  exact ⟨Record.feeds_and_iff beq_iff_eq, Record.feeds_and_iff beq_iff_eq, Record.feeds_and_iff (by simp)⟩

/-! ## The hazard step, outcome by outcome (R305) -/

section
variable {s : State}

theorem State.hazardStep_of_raw_nm (h : s.raw.n = true ∨ s.raw.m = true) :
    s.hazardStep = s.stallWith s.raw.n s.raw.m s.raw.t := by
  rw [State.hazardStep, State.hazardOutcome, if_pos ((Bool.or_eq_true _ _).mpr h)]

theorem State.not_delaysFlush (hn : s.raw.n = false) (hm : s.raw.m = false)
    (ht : s.raw.t = false ∨ s.params.pathTPriority = .belowFlush) : ¬ s.DelaysFlush := by
  rintro (hn' | hm' | ⟨ht', habove⟩)
  · cases hn.symm.trans hn'
  · cases hm.symm.trans hm'
  · obtain ht | hbelow := ht
    · cases ht.symm.trans ht'
    · cases hbelow.symm.trans habove

theorem State.flushesNow_of_no_branch (hb : s.branchTaken = false) : s.flushesNow = false := by
  rw [State.flushesNow, hb, Bool.false_and]

theorem State.hazardStep_of_raw_t (hn : s.raw.n = false) (hm : s.raw.m = false) (hb : s.branchTaken = false)
    (ht : s.raw.t = true) : s.hazardStep = s.stallWith false false true := by
  simp [State.hazardStep, State.hazardOutcome, hn, hm, ht, State.flushesNow_of_no_branch hb]

theorem State.hazardStep_of_no_raw (hn : s.raw.n = false) (hm : s.raw.m = false) (hb : s.branchTaken = false)
    (ht : s.raw.t = false) : s.hazardStep = s.advance := by
  simp [State.hazardStep, State.hazardOutcome, hn, hm, ht, State.flushesNow_of_no_branch hb]

end

/-- Settles O45: one lemma per clause. -/
theorem hazardStepFollowsThePriority : Obligations.HazardStepFollowsThePriority := fun _ =>
  ⟨State.hazardStep_of_raw_nm,
    fun hn hm hb ht => State.hazardStep_of_not_delaysFlush hb (State.not_delaysFlush hn hm ht),
    State.hazardStep_of_raw_t, State.hazardStep_of_no_raw⟩

end Sys2Proof.Machine

/-! SUPPORT. The Forwarding step and operand resolution (47_hazards_forwarding.md R311, R312), and the cycle that ends a stall
(R313). -/

namespace Sys2Proof.Machine

/-! ## The Forwarding step (R311) -/

section
variable {s : State}

theorem State.forwardStep_of_no_hazard (hz : s.anyHazard = false) : s.forwardStep = s :=
  if_neg (Bool.eq_false_iff.mp hz)

theorem State.forwardStep_of_hazard (hz : s.anyHazard = true) :
    s.forwardStep = { s with decodeBuf := s.forwardedDecode, hzN := false, hzM := false, hzT := false } :=
  if_pos hz

theorem State.forwardStep_decodeBuf_of_hazard (hz : s.anyHazard = true) :
    s.forwardStep.decodeBuf = s.forwardedDecode := by
  rw [State.forwardStep_of_hazard hz]

/-- W holds nothing that the mux can forward: a bubble, no request, one for register 31, or a format D instruction (R302,
R314). -/
theorem State.forwardable_eq_none
    (h : s.writebackBuf = none ∨ ∃ w, s.writebackBuf = some w ∧
      (w.wb = none ∨ (∃ q, w.wb = some q ∧ q.reg = 31) ∨ Record.format w.record = some .D)) :
    s.forwardable = none := by
  obtain hw | ⟨w, hw, hwb | ⟨q, hwb, hreg⟩ | hformat⟩ := h
  · rw [State.forwardable, hw]
  · simp only [State.forwardable, hw, hwb]
  · have hzero : q.reg = zeroReg := hreg
    simp [State.forwardable, hw, hwb, hzero]
  · cases hwb : w.wb <;> simp [State.forwardable, hw, hwb, hformat]

theorem State.forwardable_eq_some {w : ExecBuf} {q : WriteReq} (hw : s.writebackBuf = some w) (hwb : w.wb = some q)
    (hreg : q.reg ≠ 31) (hformat : Record.format w.record ≠ some .D) : s.forwardable = some q := by
  simp only [State.forwardable, hw, hwb]
  exact if_pos ⟨hreg, hformat⟩

theorem State.forwardedDecode_of_none (h : s.forwardable = none) : s.forwardedDecode = s.decodeBuf := by
  rw [State.forwardedDecode, h]

theorem State.forwardedDecode_of_some {q : WriteReq} {d : DecodeBuf} (h : s.forwardable = some q)
    (hd : s.decodeBuf = some d) : s.forwardedDecode = some (s.latch q d) := by
  rw [State.forwardedDecode, h, hd]
  rfl

end

/-- A path that is read has the latched value, else the register's; a path that is not read has none (R312). -/
theorem State.resolvePath_eq_map (s : State) (path : Option RegIdx) (fwd : Option Word) :
    s.resolvePath path fwd = path.map fun r => fwd.getD (s.reg r) := by
  cases path <;> rfl

/-- Settles O46: what W can forward decides what D becomes. -/
theorem forwardingAndResolution : Obligations.ForwardingAndResolution := by
  intro s d hd
  refine ⟨State.forwardStep_of_no_hazard, fun hz => ?_, fun hz hw => ?_, fun hz w q hw hwb hreg hformat => ?_, ?_⟩
  · rw [State.forwardStep_decodeBuf_of_hazard hz, State.forwardStep_of_hazard hz]
  · rw [State.forwardStep_decodeBuf_of_hazard hz, State.forwardedDecode_of_none (State.forwardable_eq_none hw), hd]
  · have hq := State.forwardable_eq_some hw hwb hreg hformat
    rw [State.forwardStep_decodeBuf_of_hazard hz, State.forwardedDecode_of_some hq hd]
    rfl
  · rw [State.resolve, State.resolvePath_eq_map, State.resolvePath_eq_map, State.resolvePath_eq_map]

/-! ## The end of a stall (R313) -/

/-- Whether or not it latches a value, the Forwarding step leaves the index and the record of the instruction in D. -/
theorem State.forwardStep_keeps_record {s : State} {d : DecodeBuf} (hd : s.decodeBuf = some d) :
    ∃ d', s.forwardStep.decodeBuf = some d' ∧ d'.ipc = d.ipc ∧ d'.record = d.record := by
  cases hz : s.anyHazard with
  | false => exact ⟨d, by rw [State.forwardStep_of_no_hazard hz, hd], rfl, rfl⟩
  | true =>
    rw [State.forwardStep_decodeBuf_of_hazard hz]
    cases hq : s.forwardable with
    | none => exact ⟨d, by rw [State.forwardedDecode_of_none hq, hd], rfl, rfl⟩
    | some q => exact ⟨s.latch q d, State.forwardedDecode_of_some hq hd, rfl, rfl⟩

/-- P1 to P3 leave the instruction in D in its place, decoded (R278). -/
theorem State.frontHalf_decodes {s : State} {d : DecodeBuf} (hd : s.decodeBuf = some d) :
    ∃ d', s.frontHalf.decodeBuf = some d' ∧ d'.ipc = d.ipc ∧ d'.decoded = decodeFetched d.word := by
  have hd' : s.fetchStep.decodeStep.decodeBuf = some { d with record := some (decodeFetched d.word) } := by simp [hd]
  obtain ⟨d', hfront, hipc, hrecord⟩ := State.forwardStep_keeps_record hd'
  exact ⟨d', hfront, hipc, by rw [DecodeBuf.decoded, hrecord, Option.getD_some]⟩

/-- Settles O47: with a bubble in E there is no dependency, so the cycle flushes if a branch is pending and otherwise issues
the held instruction; neither raises a hazard flag. -/
theorem stallLastsOneCycle : Obligations.StallLastsOneCycle := by
  intro s d hm hh hz he hd
  have hstep := step_of_bubble hm hh he
  have hpc : s.frontHalf.commitWriteback.countCycle.pc = s.pc := by simp [State.frontHalf_pc, hz]
  have hidle : s.frontHalf.commitWriteback.countCycle.anyHazard = false := by simp
  have hbubble : s.frontHalf.commitWriteback.countCycle.executeBuf = none := by simpa using he
  cases hb : s.branchTaken with
  | true =>
    rw [State.hazardStep_of_not_delaysFlush (by simpa using hb) (State.not_delaysFlush_of_bubble hbubble)] at hstep
    exact ⟨_, hstep, hidle, hpc, fun _ => ⟨rfl, rfl, rfl⟩, nofun⟩
  | false =>
    obtain ⟨d', hd', hipc, hrecord⟩ := State.frontHalf_decodes hd
    rw [State.hazardStep_of_idle (by simpa using hb) hbubble] at hstep
    exact ⟨_, hstep, hidle, hpc, nofun, fun _ =>
      ⟨s.frontHalf.commitWriteback.countCycle.resolve d', by simp [hd'], hipc, hrecord⟩⟩

end Sys2Proof.Machine

/-! SUPPORT. The trace of a pipelined cycle (60_exceptions.md R343): how often it reports the hazard step's outcome. -/

namespace Sys2Proof.Machine

/-! ## Hazard events among the events of a cycle -/

/-- The event of the hazard step. -/
def TraceEvent.isHazard (ev : TraceEvent) : Bool :=
  match ev with
  | .hazard _ => true
  | _ => false

/-- No event of the list is the hazard step's. -/
def NoHazardEvent (l : List TraceEvent) : Prop := l.countP TraceEvent.isHazard = 0

theorem NoHazardEvent.nil : NoHazardEvent [] := rfl

theorem NoHazardEvent.append {l k : List TraceEvent} (hl : NoHazardEvent l) (hk : NoHazardEvent k) :
    NoHazardEvent (l ++ k) := by
  rw [NoHazardEvent, List.countP_append, hl, hk]

theorem noHazardEvent_fetched (f : FetchBuf) : NoHazardEvent f.events := rfl

theorem noHazardEvent_decodeEvents (ipc : Word) (word : Option IWord) : NoHazardEvent (decodeEvents ipc word) := by
  unfold decodeEvents
  split
  · rfl
  · split <;> rfl

theorem noHazardEvent_latchEvents (select : Bool) (path : Option RegIdx) (q : WriteReq) (name : Path) :
    NoHazardEvent (latchEvents select path q name) := by
  unfold latchEvents
  split <;> rfl

theorem State.noHazardEvent_forwardEvents (s : State) : NoHazardEvent s.forwardEvents := by
  unfold State.forwardEvents
  split
  · exact ((noHazardEvent_latchEvents _ _ _ _).append (noHazardEvent_latchEvents _ _ _ _)).append
      (noHazardEvent_latchEvents _ _ _ _)
  · exact .nil

theorem State.noHazardEvent_frontEvents (s : State) : NoHazardEvent s.frontEvents := by
  refine NoHazardEvent.append (NoHazardEvent.append ?_ ?_) (State.noHazardEvent_forwardEvents _)
  · split
    · exact .nil
    · exact noHazardEvent_fetched _
  · split
    · exact noHazardEvent_decodeEvents _ _
    · exact .nil

section
variable (ipc : Word) (eff : Effect)

theorem Effect.noHazardEvent_resultEvents : NoHazardEvent (eff.resultEvents ipc) := by
  unfold Effect.resultEvents; split <;> rfl

theorem Effect.noHazardEvent_accessEvents : NoHazardEvent (eff.accessEvents ipc) := by
  unfold Effect.accessEvents; split <;> rfl

theorem Effect.noHazardEvent_flagEvents : NoHazardEvent (eff.flagEvents ipc) := by
  unfold Effect.flagEvents; split <;> rfl

theorem BranchOutcome.noHazardEvent_events (b : BranchOutcome) : NoHazardEvent (b.events ipc) := by
  cases b <;> rfl

theorem Executed.noHazardEvent_events (r : Record) (x : Executed) : NoHazardEvent (x.events r ipc) := by
  cases x with
  | raises cause info => rfl
  | done eff =>
    have effect := (((eff.noHazardEvent_resultEvents ipc).append (eff.noHazardEvent_accessEvents ipc)).append
      (eff.noHazardEvent_flagEvents ipc)).append (eff.branch.noHazardEvent_events ipc)
    refine (effect.append ?_).append ?_
    · split <;> rfl
    · split <;> rfl

end

theorem State.noHazardEvent_executeEvents (s : State) : NoHazardEvent s.executeEvents := by
  unfold State.executeEvents
  split
  · exact .nil
  · split
    · exact Executed.noHazardEvent_events _ _ _
    · exact .nil

theorem noHazardEvent_commitEvents (w : Option ExecBuf) : NoHazardEvent (commitEvents w) := by
  unfold commitEvents
  split
  · exact .nil
  · split
    · split <;> rfl
    · exact .nil

/-- P5 to P7 report the hazard step's outcome unless Execute took a fault (R282). -/
theorem State.countP_backEvents (s : State) :
    s.backEvents.countP TraceEvent.isHazard = if s.fault.isSome then 0 else 1 := by
  have hcommit : (commitEvents s.writebackBuf).countP TraceEvent.isHazard = 0 := noHazardEvent_commitEvents _
  rw [State.backEvents, List.countP_append, hcommit, Nat.zero_add]
  split <;> rfl

/-! ## The trace of a cycle -/

/-- P5 to P7 raise no fault. -/
theorem State.finishCycle_fault (s : State) : s.finishCycle.fault = s.fault := by
  unfold State.finishCycle
  split <;> simp

/-- A cycle that answers is Execute's next state, finished. -/
theorem State.executeStep_of_pipeCycle {s t : State} (h : s.pipeCycle = .next t) :
    ∃ u, s.frontHalf.executeStep = .next u ∧ t = u.finishCycle := by
  unfold State.pipeCycle at h
  split at h
  · next u hu =>
    cases h
    exact ⟨u, hu, rfl⟩
  · cases h
  · cases h

/-- The trace of a running pipelined cycle, in stage order. -/
theorem trace_of_executeStep {s u : State} (hm : s.params.mode = .pipelined) (hh : s.halted = false)
    (hu : s.frontHalf.executeStep = .next u) :
    trace s = s.frontEvents ++ s.frontHalf.executeEvents ++ u.backEvents := by
  rw [trace, hm]
  simp only [State.pipeEvents, hh, hu, Bool.false_eq_true, if_false]

/-- Settles O50: P1 to P4 and the commit report no hazard outcome, and P7 runs exactly if the cycle took no fault
(`State.countP_backEvents`). -/
theorem oneHazardEventPerCycle : Obligations.OneHazardEventPerCycle := by
  intro s t hm hh ht
  rw [step_pipelined s hm hh] at ht
  obtain ⟨u, hu, rfl⟩ := State.executeStep_of_pipeCycle ht
  have front : NoHazardEvent (s.frontEvents ++ s.frontHalf.executeEvents) :=
    s.noHazardEvent_frontEvents.append s.frontHalf.noHazardEvent_executeEvents
  calc (trace s).countP TraceEvent.isHazard
    _ = (s.frontEvents ++ s.frontHalf.executeEvents).countP TraceEvent.isHazard + u.backEvents.countP TraceEvent.isHazard := by
      rw [trace_of_executeStep hm hh hu, List.countP_append]
    _ = u.backEvents.countP TraceEvent.isHazard := by rw [front, Nat.zero_add]
    _ = if u.finishCycle.fault.isSome then 0 else 1 := by rw [u.countP_backEvents, u.finishCycle_fault]

end Sys2Proof.Machine

/-! SUPPORT. What the Execute step of an instruction does by its class (47_hazards_forwarding.md R301, 20_memory.md R60, R74,
10_state.md R25, R41), and which registers its meaning depends on (R301). -/

namespace Sys2Proof.Machine

/-! ## The class of an instruction -/

/-- The data access that an instruction makes: none outside format D, else a store if it writes no register (R60, R74). -/
def accessKindOf (i : Instr) : Option AccessKind :=
  if i.format = .D then (if destOf i = none then some .store else some .load) else none

theorem accessKindOf_isSome_iff {i : Instr} : (accessKindOf i).isSome = true ↔ i.format = .D := by
  unfold accessKindOf
  split
  · next h => split <;> simp [h]
  · next h => simp [h]

theorem accessKindOf_eq_store_iff {i : Instr} : accessKindOf i = some .store ↔ i.format = .D ∧ destOf i = none := by
  unfold accessKindOf
  split
  · next h => split <;> simp [*]
  · next h => simp [h]

/-- The six branch instructions (10_state.md R25). -/
def IsBranch (i : Instr) : Prop :=
  (∃ d, i = .b d) ∨ (∃ d, i = .bl d) ∨ (∃ r, i = .br r) ∨ (∃ r d, i = .cbz r d) ∨ (∃ r d, i = .cbnz r d) ∨
    ∃ c d, i = .bCond c d

/-- A completed effect accesses memory as instruction `i` does, and takes a branch only if `i` is one. -/
structure ActsInClass (i : Instr) (eff : Effect) : Prop where
  access : eff.access.map (·.kind) = accessKindOf i
  branch : eff.branch.isTaken = true → IsBranch i

/-- An answer that raises, or whose effect is of the class of `i`. -/
def AnswersInClass (i : Instr) (x : Executed) : Prop :=
  match x with
  | .done eff => ActsInClass i eff
  | .raises _ _ => True

section
variable {i : Instr} {s : State}

theorem answersInClass_write {rd : RegIdx} {v : Word} (h : accessKindOf i = none) :
    AnswersInClass i (.done (Effect.write rd v)) := ⟨h.symm, nofun⟩

theorem answersInClass_writeFlags {rd : RegIdx} {v : Word} {f : Flags} (h : accessKindOf i = none) :
    AnswersInClass i (.done (Effect.writeFlags rd v f)) := ⟨h.symm, nofun⟩

theorem answersInClass_jump {b : BranchOutcome} (h : accessKindOf i = none) (hb : IsBranch i) :
    AnswersInClass i (.done (Effect.jump b)) := ⟨h.symm, fun _ => hb⟩

theorem answersInClass_loadRule {size : Size} {ext : Word → Word} {rt : RegIdx} {disp vn : Word}
    (h : accessKindOf i = some .load) : AnswersInClass i (loadRule s size ext rt disp vn) := by
  rw [loadRule_eq]
  split
  · exact ⟨h.symm, nofun⟩
  · trivial

theorem answersInClass_storeRule {size : Size} {disp vn vt : Word} (h : accessKindOf i = some .store) :
    AnswersInClass i (storeRule s size disp vn vt) := by
  rw [storeRule_eq]
  split
  · exact ⟨h.symm, nofun⟩
  · trivial

theorem answersInClass_sdivRule {rd : RegIdx} {vn vm : Word} (h : accessKindOf i = none) :
    AnswersInClass i (sdivRule rd vn vm) := by
  unfold sdivRule
  split
  · trivial
  · exact answersInClass_write h

theorem answersInClass_udivRule {rd : RegIdx} {vn vm : Word} (h : accessKindOf i = none) :
    AnswersInClass i (udivRule rd vn vm) := by
  unfold udivRule
  split
  · trivial
  · exact answersInClass_write h

theorem answersInClass_bCondRule {cond : BitVec 5} {disp ipc : Word} {f : Flags} (h : accessKindOf i = none)
    (hb : IsBranch i) : AnswersInClass i (bCondRule cond disp ipc f) := by
  unfold bCondRule
  split
  · split
    · exact ⟨h.symm, fun _ => hb⟩
    · exact answersInClass_jump h hb
  · exact answersInClass_jump h hb

end

/-- The rule of every instruction answers in the instruction's class. -/
theorem answersInClass_of_executeInstr {i : Instr} {e : ExecBuf} {s : State} {x : Executed}
    (h : executeInstr i e s = some x) : AnswersInClass i x := by
  cases i with
  | and | add | orr | eor | sub | mul | smulh | umulh => exact ExecBuf.of_withNM h fun _ _ => answersInClass_write rfl
  | adds | ands | subs => exact ExecBuf.of_withNM h fun _ _ => answersInClass_writeFlags rfl
  | sdiv => exact ExecBuf.of_withNM h fun _ _ => answersInClass_sdivRule rfl
  | udiv => exact ExecBuf.of_withNM h fun _ _ => answersInClass_udivRule rfl
  | addi | andi | orri | subi | eori | lsl | lsr => exact ExecBuf.of_withN h fun _ => answersInClass_write rfl
  | addis | subis | andis => exact ExecBuf.of_withN h fun _ => answersInClass_writeFlags rfl
  | movz => cases h; exact answersInClass_write rfl
  | movk => exact ExecBuf.of_withT h fun _ => answersInClass_write rfl
  | ldurb | ldurh | ldursw | ldur | ldxr => exact ExecBuf.of_withN h fun _ => answersInClass_loadRule rfl
  | sturb | sturh | sturw | stur | stxr => exact ExecBuf.of_withNT h fun _ _ => answersInClass_storeRule rfl
  | b disp => cases h; exact answersInClass_jump rfl (.inl ⟨disp, rfl⟩)
  | bl disp => cases h; exact ⟨rfl, fun _ => .inr (.inl ⟨disp, rfl⟩)⟩
  | br rn => exact ExecBuf.of_withN h fun _ => answersInClass_jump rfl (.inr (.inr (.inl ⟨rn, rfl⟩)))
  | cbz rt disp =>
    exact ExecBuf.of_withT h fun _ => answersInClass_jump rfl (.inr (.inr (.inr (.inl ⟨rt, disp, rfl⟩))))
  | cbnz rt disp =>
    exact ExecBuf.of_withT h fun _ => answersInClass_jump rfl (.inr (.inr (.inr (.inr (.inl ⟨rt, disp, rfl⟩)))))
  | bCond cond disp =>
    cases h
    exact answersInClass_bCondRule rfl (.inr (.inr (.inr (.inr (.inr ⟨cond, disp, rfl⟩)))))
  | exit => cases h; exact ⟨rfl, nofun⟩

theorem ActsInClass.access_isSome_iff {i : Instr} {eff : Effect} (h : ActsInClass i eff) :
    eff.access.isSome = true ↔ i.format = .D := by
  rw [← accessKindOf_isSome_iff, ← h.access, Option.isSome_map]

theorem ActsInClass.stores_iff {i : Instr} {eff : Effect} (h : ActsInClass i eff) :
    (∃ a, eff.access = some a ∧ a.kind = .store) ↔ i.format = .D ∧ destOf i = none := by
  rw [← accessKindOf_eq_store_iff, ← h.access, Option.map_eq_some_iff]

/-- The request of a completed instruction is for its destination, and there is one exactly if there is a destination
(R301). -/
theorem executeInstr_wb {i : Instr} {e : ExecBuf} {s : State} {eff : Effect}
    (h : executeInstr i e s = some (.done eff)) : eff.wb.map (·.reg) = destOf i := by
  cases ruleAnswer_of_executeInstr h with
  | write rd v dest | writeFlags rd v f dest | load rt v a dest | store a dest | jump b dest => exact dest.symm
  | jumpClearing cond disp isBCond => rw [isBCond]; rfl
  | link disp isBl => rw [isBl]; rfl
  | endRun isExit => rw [isExit]; rfl

/-- EXIT, and no other instruction, ends the run (10_state.md R41). -/
theorem executeInstr_ended_iff {i : Instr} {e : ExecBuf} {s : State} {eff : Effect}
    (h : executeInstr i e s = some (.done eff)) : eff.ended = true ↔ i = .exit := by
  constructor
  · intro hended
    cases ruleAnswer_of_executeInstr h with
    | endRun isExit => exact isExit
    | write | writeFlags | load | store | jump | jumpClearing | link => cases hended
  · rintro rfl
    cases h
    rfl

/-- Settles O31. -/
theorem executeEffectsMatchTheInstructionsClass : Obligations.ExecuteEffectsMatchTheInstructionsClass := by
  intro i e s eff h
  have acts : ActsInClass i eff := answersInClass_of_executeInstr h
  exact ⟨executeInstr_wb h, acts.access_isSome_iff, acts.stores_iff, acts.branch, executeInstr_ended_iff h⟩

/-! ## The registers that an instruction depends on (R301) -/

/-- Two cores whose registers read alike on the paths of instruction `i`. -/
def AgreeOnReads (i : Instr) (s v : State) : Prop :=
  ∀ r, readsN i = some r ∨ readsM i = some r ∨ readsT i = some r → s.reg r = v.reg r

theorem State.resolvePath_congr {s v : State} {path : Option RegIdx} (h : ∀ r, path = some r → s.reg r = v.reg r) :
    v.resolvePath path none = s.resolvePath path none := by
  cases path with
  | none => rfl
  | some r => exact congrArg some (h r rfl).symm

/-- S3 loads the same operands from both. -/
theorem AgreeOnReads.loadOperands_eq {i : Instr} {s v : State} (h : AgreeOnReads i s v) (ipc : Word) :
    v.loadOperands (.instr i) ipc = s.loadOperands (.instr i) ipc := by
  have hn := State.resolvePath_congr (path := readsN i) fun r hr => h r (.inl hr)
  have hm := State.resolvePath_congr (path := readsM i) fun r hr => h r (.inr (.inl hr))
  have ht := State.resolvePath_congr (path := readsT i) fun r hr => h r (.inr (.inr hr))
  simp only [State.loadOperands, Record.readsN, Record.readsM, Record.readsT, hn, hm, ht]

/-- The register of a committed request reads alike whatever the register file was, register 31 included (R22). -/
theorem State.reg_commit_same (s v : State) (q : WriteReq) : (s.commit (some q)).reg q.reg = (v.commit (some q)).reg q.reg := by
  rw [State.reg_commit, State.reg_commit]
  by_cases hzero : q.reg = zeroReg
  · simp [hzero, State.reg_zeroReg]
  · simp [hzero]

/-- The rule answers alike on the operands that S3 loads from either core. -/
theorem AgreeOnReads.executeInstr_eq {i : Instr} {s v : State} (h : AgreeOnReads i s v) (hp : v.params = s.params)
    (hd : v.dmem = s.dmem) (hf : v.flags = s.flags) (hpc : v.pc = s.pc) :
    executeInstr i (v.loadOperands (.instr i) v.pc) v = executeInstr i (s.loadOperands (.instr i) s.pc) s := by
  rw [hpc, h.loadOperands_eq]
  exact executeInstr_congr _ hp hd (.inr (by simp [hf]))

/-- An instruction run on another register file with the same answer of its rule: memory, flags, PC, `program_ended` and
fault do not depend on the registers. -/
theorem State.runRecord_with_regs (s : State) (regs : Vector Word 31) (r : Record) (x : Executed) :
    let t := s.runRecord r x
    let u := ({ s with regs := regs } : State).runRecord r x
    u.dmem = t.dmem ∧ u.flags = t.flags ∧ u.pc = t.pc ∧ u.programEnded = t.programEnded ∧ u.fault = t.fault := by
  cases x with
  | raises c info => exact ⟨rfl, rfl, rfl, rfl, rfl⟩
  | done eff => simp only [State.runRecord_done, and_self]

/-- Settles O32: the operands are the same, so the rule's answer is, and with it everything but the registers that the
answer does not write. -/
theorem onlyTheReadRegistersMatter : Obligations.OnlyTheReadRegistersMatter := by
  intro i s regs _ hreads
  obtain ⟨x, hx, hexec⟩ := exec_eq_runRecord i s
  obtain ⟨y, hy, hexec'⟩ := exec_eq_runRecord i { s with regs := regs }
  have same : y = x := by
    have hcongr := AgreeOnReads.executeInstr_eq (v := { s with regs := regs }) hreads rfl rfl rfl rfl
    exact Option.some.inj (hy.symm.trans (hcongr.trans hx))
  subst same
  have hdest : (s.runRecord (.instr i) y).fault = none → ∀ d, destOf i = some d →
      (s.runRecord (.instr i) y).reg d = (({ s with regs := regs } : State).runRecord (.instr i) y).reg d := by
    intro hfault d hd
    cases y with
    | raises c info => cases hfault
    | done eff =>
      obtain ⟨q, hq, rfl⟩ := Option.map_eq_some_iff.mp ((executeInstr_wb hx).trans hd)
      rw [State.reg_runRecord_done, State.reg_runRecord_done, hq]
      exact State.reg_commit_same _ _ q
  exact ⟨_, _, hexec, hexec', hdest, s.runRecord_with_regs regs (.instr i) y⟩

end Sys2Proof.Machine

/-! SUPPORT. Words that the spec names: the examples of the rules, and the word that the host loads where the core fetches
next (70_reset_and_hazards.md R361, R362). -/

namespace Sys2Proof

/-- Settles O7: each word has its row's opcode bits, and the record of its fields is the instruction that the rule names. -/
theorem exampleWordsDecode : Obligations.ExampleWordsDecode :=
  ⟨decode_of_and_mask .add rfl, decode_of_and_mask .addi rfl, decode_of_and_mask .mul rfl, decode_of_and_mask .lsl rfl,
    decode_of_and_mask .movk rfl, decode_of_and_mask .b rfl, decode_of_and_mask .cbnz rfl,
    decode_of_and_mask .sturb rfl, decode_of_and_mask .ldursw rfl, decode_of_and_mask .exit rfl⟩

theorem decodeTableWord_eq_some_iff {nbits n : Nat} {i : Instr} :
    decodeTableWord nbits n = some i ↔ decode (tableWord nbits n) = .ok i := by
  unfold decodeTableWord
  split <;> simp [*]

end Sys2Proof

namespace Sys2Proof.Machine

/-- The word placed at an index is the word read there; gaps below it do not move it (R61, R362). -/
theorem imemRead_imemPlace {i : Word} (hi : i ≠ 0) (imem : List IWord) (w : IWord) :
    imemRead (imemPlace imem i.toNat w) i = some w := by
  have hpos : 0 < i.toNat := by bv_omega
  have hlt : i.toNat - 1 < (imem ++ List.replicate (i.toNat - imem.length) 0).length := by
    rw [List.length_append, List.length_replicate]
    omega
  rw [imemRead, if_neg hi, imemPlace, List.getElem?_set_self hlt]

/-- The host loads no word at index 0, where none can stand (20_memory.md R71). -/
theorem State.loadIndex_ne_zero (s : State) : s.loadIndex ≠ 0 := by
  unfold State.loadIndex
  split
  · decide
  · assumption

/-- The loaded word is the one at the PC. -/
theorem State.imemRead_loadNext (s : State) (w : IWord) : imemRead (s.loadNext w).imem (s.loadNext w).pc = some w :=
  imemRead_imemPlace s.loadIndex_ne_zero s.imem w

/-- A loaded word that decodes to an instruction is the next to run, whatever the core was doing. -/
theorem step_loadNext {w : IWord} {i : Instr} (hi : decode w = .ok i) (s : State) :
    step (s.loadNext w) = exec i (s.loadNext w) :=
  have hb : (s.loadNext w).atBoundary = true := State.atBoundary_of_empty rfl rfl rfl
  sequentialStepRunsTheDecodedInstruction (s.loadNext w) w i rfl hb rfl (s.imemRead_loadNext w) hi

/-- Settles O36: the load puts the word at the PC of any core, that of `State.reset` among them. -/
theorem loadedWordRunsFirst : Obligations.LoadedWordRunsFirst := fun _ _ h =>
  step_loadNext (decodeTableWord_eq_some_iff.mp h) State.reset

end Sys2Proof.Machine
